-- ==== Sys2Proof/Word.lean ====
section
/-! DEFINITION. The two word types of UMN-CORE: the 32-bit host-port word and the storage slot of one digit. -/

namespace Sys2Proof

/-- A 32-bit word of the host data port, and the 32-bit command word (R10, R110, R121). -/
abbrev Word := BitVec 32

/-- The storage slot of one W-bit digit: the two host-port word slots LO (bits 31:0) and HI (bits 63:32) of R34.
For W < 64 the bits at W and above are always 0 in a well-formed state, and no accessor reads them. -/
abbrev Digit := BitVec 64

end Sys2Proof
end

