-- ==== Sys2Proof/Config.lean ====
section
/-! DEFINITION. What one instance of the hardware fixes (W, DMEM_DEPTH, UMN_BASE), the constants of R9 and R10,
and the free values: the contents the spec calls UNSPECIFIED, as constants without a body. -/

namespace Sys2Proof

/-- R7: the digit width W is one of 8, 16, 32 or 64. -/
inductive DigitWidth where
  | w8 | w16 | w32 | w64
deriving DecidableEq, Repr

/-- W in bits (R7). -/
def DigitWidth.bits : DigitWidth → Nat
  | .w8 => 8
  | .w16 => 16
  | .w32 => 32
  | .w64 => 64

/-- The implementation parameters (R7, R8, R93). They are configuration and no step changes them; a state carries them
so that every statement about all states is a statement about all instances (log entry 1). -/
structure Params where
  /-- W (R7). -/
  width : DigitWidth
  /-- DMEM_DEPTH, the number of digits in DMEM (R8). -/
  depth : Nat
  /-- UMN_BASE, the block's base address in the host's address space (R93). -/
  umnBase : Nat
deriving DecidableEq, Repr

/-- W. -/
def Params.bits (c : Params) : Nat := c.width.bits

/-- B = 2^W, the digit radix (R7). -/
def Params.radix (c : Params) : Nat := 2 ^ c.bits

/-- R8: 64 <= DMEM_DEPTH <= 2^28. -/
def Params.ok (c : Params) : Bool := decide (64 ≤ c.depth ∧ c.depth ≤ 2 ^ 28)

namespace Config

/-- NSPAN, the number of span descriptors (R10). -/
def nspan : Nat := 8

/-- NDR, the number of digit registers (R10). -/
def ndr : Nat := 8

/-- KTHRESH, the Karatsuba threshold in digits (R9). -/
def kthresh : Nat := 16

/-- The instance that `State.reset` is a reset of: W = 8 and DMEM_DEPTH = 256, as in 95_test_vectors.md.
DESIGN CHOICE, log entry 1. -/
def resetParams : Params := { width := .w8, depth := 256, umnBase := 0 }

/-- FREE VALUE (log entry 2; R50, R343): what DMEM digit `addr` holds after reset number `draw` until it is written. -/
opaque freeDigit (draw addr : Nat) : Digit

/-- FREE VALUE (log entry 3; R50, R343): what DRk holds after reset number `draw`. -/
opaque freeDr (draw k : Nat) : Digit

/-- FREE VALUE (log entry 4; R47, R50): what the engine's scratch storage holds after draw number `draw`. -/
opaque freeScratch (draw : Nat) : List Digit

end Config

end Sys2Proof
end

