-- ==== Sys2Proof/Syntax.lean ====
section
/-! DEFINITION. The command set: one constructor of Instr for each row of spec/opcode_table.json, with the operand
roles of R112 as arguments in the order of the fields A, B, C, D, E, F, G. -/

namespace Sys2Proof

/-- The number n of a span descriptor SPn in an operand field (R111). -/
abbrev SpanReg := Fin 8

/-- The number n of a digit register DRn in an operand field (R111). -/
abbrev DigitReg := Fin 8

/-- The ALG field of MUL and SQR as it stands in the word; only 0, 1 and 2 are legal (R116). -/
abbrev AlgField := Fin 8

/-- The S bit of the adder commands: the signedness of the result range (R114). -/
inductive Range where
  /-- S = 0, suffix `.U`. -/
  | unsigned
  /-- S = 1, suffix `.S`. -/
  | signed
deriving DecidableEq, Repr

/-- The 17 commands of R118. -/
inductive Instr where
  /-- R155 -/
  | nop
  /-- R156 -/
  | clrf
  /-- R172 -/
  | incd (range : Range) (sd : SpanReg) (d : DigitReg)
  /-- R173 -/
  | decd (range : Range) (sd : SpanReg) (d : DigitReg)
  /-- R174 -/
  | incs (range : Range) (sd sa : SpanReg)
  /-- R175 -/
  | decs (range : Range) (sd sa : SpanReg)
  /-- R176 -/
  | neg (range : Range) (sd : SpanReg)
  /-- R177 -/
  | macd (sd sa : SpanReg) (m a carry : DigitReg)
  /-- R210 -/
  | mulp (lo hi x y : DigitReg)
  /-- R211 -/
  | mulpa (lo hi x y z : DigitReg)
  /-- R212 -/
  | muld (sd : SpanReg) (m a carry : DigitReg)
  /-- R213 -/
  | mul (sd sa sb : SpanReg) (alg : AlgField)
  /-- R214 -/
  | sqr (sd sa : SpanReg) (alg : AlgField)
  /-- R250 -/
  | divp (q r h l v : DigitReg)
  /-- R251 -/
  | divd (sd : SpanReg) (v r : DigitReg)
  /-- R252 -/
  | remd (sa : SpanReg) (v r : DigitReg)
  /-- R253 -/
  | ldiv (sq sr sa sb : SpanReg)
deriving DecidableEq, Repr

end Sys2Proof
end

