-- ==== Sys2Proof/WellFormed.lean ====
section
/-! DEFINITION. Which terms of Instr are commands. Register numbers are in 0..7 by their type; what is left to check is
the ALG field. -/

namespace Sys2Proof

/-- R116: ALG is 0, 1 or 2; the values 3 to 7 are no command. -/
def AlgField.legal (alg : AlgField) : Bool := decide (alg.val ≤ 2)

/-- Every field of the command holds a value its role allows (R112, R116). -/
def Instr.wellFormed : Instr → Bool
  | .nop => true
  | .clrf => true
  | .incd _ _ _ => true
  | .decd _ _ _ => true
  | .incs _ _ _ => true
  | .decs _ _ _ => true
  | .neg _ _ => true
  | .macd _ _ _ _ _ => true
  | .mulp _ _ _ _ => true
  | .mulpa _ _ _ _ _ => true
  | .muld _ _ _ _ => true
  | .mul _ _ _ alg => alg.legal
  | .sqr _ _ alg => alg.legal
  | .divp _ _ _ _ _ => true
  | .divd _ _ _ => true
  | .remd _ _ _ => true
  | .ldiv _ _ _ _ => true

end Sys2Proof
end

