-- ==== Sys2Proof/Decode.lean ====
section
/-! DEFINITION. The command word (R110), its decoder (R122) and its encoder (R110, R112, R118). -/

namespace Sys2Proof

/-- Why a word is no command; the two rejections of R122. -/
inductive DecodeError where
  /-- OPC is reserved (R119). -/
  | illegalOpcode
  /-- RSV, an unused field or an illegal S is nonzero, or ALG > 2 (R113 to R116). -/
  | reservedField
deriving DecidableEq, Repr

/-! ### The fields of format C (R110) -/

/-- OPC, bits 31:26. -/
def Word.opc (w : Word) : Nat := w.toNat / 2 ^ 26

/-- S, bit 25. -/
def Word.sBit (w : Word) : Nat := w.toNat / 2 ^ 25 % 2

/-- A 3-bit operand field at bits lo+2:lo (R111). -/
def Word.field (w : Word) (lo : Nat) : Fin 8 := ⟨w.toNat / 2 ^ lo % 8, Nat.mod_lt _ (by decide)⟩

/-- Field A, bits 24:22. -/
def Word.fA (w : Word) : Fin 8 := Word.field w 22
/-- Field B, bits 21:19. -/
def Word.fB (w : Word) : Fin 8 := Word.field w 19
/-- Field C, bits 18:16. -/
def Word.fC (w : Word) : Fin 8 := Word.field w 16
/-- Field D, bits 15:13. -/
def Word.fD (w : Word) : Fin 8 := Word.field w 13
/-- Field E, bits 12:10. -/
def Word.fE (w : Word) : Fin 8 := Word.field w 10
/-- Field F, bits 9:7. -/
def Word.fF (w : Word) : Fin 8 := Word.field w 7
/-- Field G, bits 6:4. -/
def Word.fG (w : Word) : Fin 8 := Word.field w 4

/-- RSV, bits 3:0. -/
def Word.rsv (w : Word) : Nat := w.toNat % 16

/-- R114: S = 0 is the unsigned result range, S = 1 the signed one. -/
def Word.range (w : Word) : Range := if Word.sBit w = 1 then .signed else .unsigned

/-- R114: the value of the S bit for a range. -/
def Range.bit : Range → Nat
  | .unsigned => 0
  | .signed => 1

/-! ### Decoding -/

/-- The command, if the bits that R122 wants zero (and ALG in its range) are as R122 says. -/
def legal (fieldsOk : Bool) (i : Instr) : Except DecodeError Instr :=
  if fieldsOk then .ok i else .error .reservedField

/-- R122 with the opcode map of R118 and the roles of R112. In each row the listed bits have no role for the opcode and
must be 0 (R113 to R115). -/
def decode (w : Word) : Except DecodeError Instr :=
  let s := Word.sBit w
  let a := Word.fA w
  let b := Word.fB w
  let c := Word.fC w
  let d := Word.fD w
  let e := Word.fE w
  let f := Word.fF w
  let g := Word.fG w
  let rsv := Word.rsv w
  match Word.opc w with
  | 0x00 => legal (decide (s = 0 ∧ a = 0 ∧ b = 0 ∧ c = 0 ∧ d = 0 ∧ e = 0 ∧ f = 0 ∧ g = 0 ∧ rsv = 0)) .nop
  | 0x01 => legal (decide (s = 0 ∧ a = 0 ∧ b = 0 ∧ c = 0 ∧ d = 0 ∧ e = 0 ∧ f = 0 ∧ g = 0 ∧ rsv = 0)) .clrf
  | 0x08 => legal (decide (b = 0 ∧ c = 0 ∧ d = 0 ∧ f = 0 ∧ g = 0 ∧ rsv = 0)) (.incd (Word.range w) a e)
  | 0x09 => legal (decide (b = 0 ∧ c = 0 ∧ d = 0 ∧ f = 0 ∧ g = 0 ∧ rsv = 0)) (.decd (Word.range w) a e)
  | 0x0A => legal (decide (c = 0 ∧ d = 0 ∧ e = 0 ∧ f = 0 ∧ g = 0 ∧ rsv = 0)) (.incs (Word.range w) a b)
  | 0x0B => legal (decide (c = 0 ∧ d = 0 ∧ e = 0 ∧ f = 0 ∧ g = 0 ∧ rsv = 0)) (.decs (Word.range w) a b)
  | 0x0C => legal (decide (b = 0 ∧ c = 0 ∧ d = 0 ∧ e = 0 ∧ f = 0 ∧ g = 0 ∧ rsv = 0)) (.neg (Word.range w) a)
  | 0x0D => legal (decide (s = 0 ∧ c = 0 ∧ d = 0 ∧ rsv = 0)) (.macd a b e f g)
  | 0x10 => legal (decide (s = 0 ∧ c = 0 ∧ d = 0 ∧ g = 0 ∧ rsv = 0)) (.mulp a b e f)
  | 0x11 => legal (decide (s = 0 ∧ c = 0 ∧ d = 0 ∧ rsv = 0)) (.mulpa a b e f g)
  | 0x12 => legal (decide (s = 0 ∧ b = 0 ∧ c = 0 ∧ d = 0 ∧ rsv = 0)) (.muld a e f g)
  | 0x13 => legal (decide (s = 0 ∧ d = 0 ∧ f = 0 ∧ g = 0 ∧ rsv = 0 ∧ e.val ≤ 2)) (.mul a b c e)
  | 0x14 => legal (decide (s = 0 ∧ c = 0 ∧ d = 0 ∧ f = 0 ∧ g = 0 ∧ rsv = 0 ∧ e.val ≤ 2)) (.sqr a b e)
  | 0x18 => legal (decide (s = 0 ∧ c = 0 ∧ d = 0 ∧ rsv = 0)) (.divp a b e f g)
  | 0x19 => legal (decide (s = 0 ∧ b = 0 ∧ c = 0 ∧ d = 0 ∧ g = 0 ∧ rsv = 0)) (.divd a e f)
  | 0x1A => legal (decide (s = 0 ∧ b = 0 ∧ c = 0 ∧ d = 0 ∧ g = 0 ∧ rsv = 0)) (.remd a e f)
  | 0x1B => legal (decide (s = 0 ∧ e = 0 ∧ f = 0 ∧ g = 0 ∧ rsv = 0)) (.ldiv a b c d)
  | _ => .error .illegalOpcode

/-- What the host asks of the decoder: a command is one 32-bit word (R121), written to CMD as one host word. -/
def decodeTableWord (nbits w : Nat) : Option Instr :=
  match decode (BitVec.ofNat 32 (w % 2 ^ nbits)) with
  | .ok i => some i
  | .error _ => none

/-! ### Encoding -/

/-- R110: `OPC<<26 | S<<25 | A<<22 | B<<19 | C<<16 | D<<13 | E<<10 | F<<7 | G<<4`, RSV being 0. -/
def commandWord (opc s : Nat) (a b c d e f g : Fin 8) : Word :=
  BitVec.ofNat 32 (opc * 2 ^ 26 + s * 2 ^ 25 + a.val * 2 ^ 22 + b.val * 2 ^ 19 + c.val * 2 ^ 16 + d.val * 2 ^ 13
    + e.val * 2 ^ 10 + f.val * 2 ^ 7 + g.val * 2 ^ 4)

/-- The opcode of R118. -/
def Instr.opcode : Instr → Nat
  | .nop => 0x00
  | .clrf => 0x01
  | .incd _ _ _ => 0x08
  | .decd _ _ _ => 0x09
  | .incs _ _ _ => 0x0A
  | .decs _ _ _ => 0x0B
  | .neg _ _ => 0x0C
  | .macd _ _ _ _ _ => 0x0D
  | .mulp _ _ _ _ => 0x10
  | .mulpa _ _ _ _ _ => 0x11
  | .muld _ _ _ _ => 0x12
  | .mul _ _ _ _ => 0x13
  | .sqr _ _ _ => 0x14
  | .divp _ _ _ _ _ => 0x18
  | .divd _ _ _ => 0x19
  | .remd _ _ _ => 0x1A
  | .ldiv _ _ _ _ => 0x1B

/-- The word of a command: the opcode of R118 and each operand in the field R112 gives its role, every other bit 0. -/
def encode (i : Instr) : Word :=
  match i with
  | .nop => commandWord i.opcode 0 0 0 0 0 0 0 0
  | .clrf => commandWord i.opcode 0 0 0 0 0 0 0 0
  | .incd range sd d => commandWord i.opcode range.bit sd 0 0 0 d 0 0
  | .decd range sd d => commandWord i.opcode range.bit sd 0 0 0 d 0 0
  | .incs range sd sa => commandWord i.opcode range.bit sd sa 0 0 0 0 0
  | .decs range sd sa => commandWord i.opcode range.bit sd sa 0 0 0 0 0
  | .neg range sd => commandWord i.opcode range.bit sd 0 0 0 0 0 0
  | .macd sd sa m a carry => commandWord i.opcode 0 sd sa 0 0 m a carry
  | .mulp lo hi x y => commandWord i.opcode 0 lo hi 0 0 x y 0
  | .mulpa lo hi x y z => commandWord i.opcode 0 lo hi 0 0 x y z
  | .muld sd m a carry => commandWord i.opcode 0 sd 0 0 0 m a carry
  | .mul sd sa sb alg => commandWord i.opcode 0 sd sa sb 0 alg 0 0
  | .sqr sd sa alg => commandWord i.opcode 0 sd sa 0 0 alg 0 0
  | .divp q r h l v => commandWord i.opcode 0 q r 0 0 h l v
  | .divd sd v r => commandWord i.opcode 0 sd 0 0 0 v r 0
  | .remd sa v r => commandWord i.opcode 0 sa 0 0 0 v r 0
  | .ldiv sq sr sa sb => commandWord i.opcode 0 sq sr sa sb 0 0 0

end Sys2Proof
end

