-- ==== Sys2Proof/Machine/State.lean ====
section
/-! DEFINITION. The state of UMN-CORE (R30, R47) as plain data, the host's pending accesses, the outcomes other than a
next state, and the state after reset (R50). -/

namespace Sys2Proof.Machine

/-- R301: the error codes. Codes 0x09 to 0xFF are reserved and never recorded. -/
inductive ErrCode where
  | none
  | illegalOpcode
  | reservedField
  | spanRange
  | dividendNotWider
  | count
  | ext
  | overlap
  | divisorNotNormal
deriving DecidableEq, Repr

/-- R33: one span descriptor. -/
structure Span where
  /-- BASE, a digit address. -/
  base : BitVec 32
  /-- COUNT, a number of digits. -/
  count : BitVec 32
  /-- EXT, the extension bit. -/
  ext : Bool
deriving DecidableEq, Repr

/-- R31, R80: DMEM as the list of the digits written since the last reset, by strictly rising digit address. The digit is
the smallest unit of DMEM; an address that is not listed holds no written digit (log entries 2 and 5). -/
abbrev Memory := List (Nat × Digit)

/-- What the outside world does to the block: a host access (R90) at an absolute byte address of the host's address
space, or the platform's reset input (R340). -/
inductive HostOp where
  | read (addr : Nat)
  | write (addr : Nat) (v : Word)
  | reset
deriving DecidableEq, Repr

/-- One thing the outside world does, and whether it reaches the block while the command then in flight still runs. How
long a command runs is left open (R347), so `early` is input, and every statement about all states covers both cases. -/
structure HostEvent where
  op : HostOp
  early : Bool
deriving DecidableEq, Repr

/-- The machine (R30, R47). ID and the CFG registers are constants of `cfg` (R41, R42). The last six fields are the
model's own; INVENTORY.md says which is which. -/
structure State where
  /-- The instance's parameters; no step changes them. -/
  cfg : Params
  /-- DMEM (R31, R80). -/
  dmem : Memory
  /-- DR0 to DR7 (R32). -/
  dr : Vector Digit 8
  /-- SP0 to SP7 (R33). -/
  sp : Vector Span 8
  /-- The in-flight flag and the accepted command word (R47): STATUS.BUSY is 1 exactly when there is a word (R39). -/
  inFlight : Option Word
  /-- STATUS.DONE (R39). -/
  done : Bool
  /-- STATUS.OVF (R39, R150). -/
  ovf : Bool
  /-- STATUS.STICKY (R39, R150). -/
  sticky : Bool
  /-- STATUS.ERR, the ERR latch (R39, R304). -/
  err : Bool
  /-- STATUS.ERRCODE (R39, R301). -/
  errCode : ErrCode
  /-- CTRL.IE_DONE (R40). -/
  ieDone : Bool
  /-- CTRL.IE_ERR (R40). -/
  ieErr : Bool
  /-- ERRCMD (R45). -/
  errCmd : Word
  /-- The engine's scratch storage as the last operation left it (R47). -/
  scratch : List Digit
  /-- Model's own: the draw number under which a DMEM digit not written since the last reset reads (log entry 2). -/
  epoch : Nat
  /-- Model's own: the number of the next free value to be drawn. -/
  draws : Nat
  /-- Model's own: the record of R317 that an abort happened, which ERRCLR does not erase. -/
  everAborted : Bool
  /-- Model's own: what the outside world is still to do, oldest first (log entry 6). -/
  events : List HostEvent
  /-- Model's own: the words that host reads have returned, newest first (log entry 6). -/
  readLog : List Word
deriving DecidableEq, Repr

/-- The reasons for which the machine stops with a fault: there are none. UMN-CORE takes no traps (R308), no host access
is refused (R49, R90), and an abort is a next state with the ERR latch set (R303). -/
inductive Fault where
deriving DecidableEq, Repr

/-- The reasons for which the model gives no meaning. -/
inductive Refusal where
  /-- Raised only by an arm of `exec` whose instruction has no meaning yet; no arm raises it. Safe: nothing is claimed
  of the instruction. -/
  | notModelled (mnemonic : String)
deriving DecidableEq, Repr

/-- The low W bits of a digit slot. -/
def truncDigit (c : Params) (d : Digit) : Digit := BitVec.ofNat 64 (d.toNat % c.radix)

/-- R33, R50: a span descriptor after reset. -/
def Span.reset : Span := { base := 0, count := 0, ext := false }

/-- R50, R340: every piece of state after the reset that takes the draw `draw`. DMEM and the DRs are UNSPECIFIED: no digit
is listed, so each reads as its free value under this draw, and each DR holds a free value of W bits (log entries 2, 3). -/
def State.afterReset (c : Params) (draw : Nat) : State :=
  { cfg := c
    dmem := []
    dr := Vector.ofFn fun k => truncDigit c (Config.freeDr draw k.val)
    sp := Vector.replicate 8 Span.reset
    inFlight := none
    done := false
    ovf := false
    sticky := false
    err := false
    errCode := .none
    ieDone := false
    ieErr := false
    errCmd := 0
    scratch := Config.freeScratch draw
    epoch := draw
    draws := draw + 1
    everAborted := false
    events := []
    readLog := [] }

/-- The machine right after its first reset (R50, R341). -/
def State.reset : State := State.afterReset Config.resetParams 0

end Sys2Proof.Machine
end

