-- ==== Sys2Proof/Machine/Ops.lean ====
section
/-! DEFINITION. The named operations over DMEM and the registers (R15, R34, R80, R84), the end of a command (R307),
the abort (R303) and its return, ERRCLR (R305), and the checks of R302. -/

namespace Sys2Proof.Machine

/-! ### DMEM as a list -/

/-- The digit written at an address, if one was. -/
def Memory.find : Memory → Nat → Option Digit
  | [], _ => none
  | (b, d) :: rest, a => if a = b then some d else Memory.find rest a

/-- Write one digit, keeping the addresses strictly rising. -/
def Memory.store : Memory → Nat → Digit → Memory
  | [], a, d => [(a, d)]
  | (b, e) :: rest, a, d =>
    if a < b then (a, d) :: (b, e) :: rest
    else if a = b then (a, d) :: rest
    else (b, e) :: Memory.store rest a d

/-- Every listed address is above `a`. -/
def Memory.above (a : Nat) : Memory → Bool
  | [] => true
  | (b, _) :: rest => decide (a < b) && Memory.above a rest

/-- The canonical form: addresses strictly rising. An unlisted address holds no written digit, so no listed digit can
equal what an unlisted address reads as, and equal memories are equal lists (log entry 5). -/
def Memory.wf : Memory → Bool
  | [] => true
  | (b, _) :: rest => Memory.above b rest && Memory.wf rest

/-! ### Registers and digits (R15) -/

/-- A number as a W-bit digit. -/
def toDigit (c : Params) (v : Nat) : Digit := BitVec.ofNat 64 (v % c.radix)

/-- Write the n low digits of v at a, a+1, ... (R15, R83). -/
def Memory.storeDigits (c : Params) (m : Memory) (a : Nat) : Nat → Nat → Memory
  | 0, _ => m
  | n + 1, v => Memory.storeDigits c (Memory.store m a (toDigit c v)) (a + 1) n (v / c.radix)

/-- `DR[k]` as the unsigned number it holds (R15, R32). -/
def State.readDr (s : State) (k : DigitReg) : Nat := s.dr[k].toNat % s.cfg.radix

/-- `DR[k] <- v` (R15). -/
def State.writeDr (s : State) (k : DigitReg) (v : Nat) : State := { s with dr := s.dr.set k (toDigit s.cfg v) }

/-- The digit at DMEM address `a` (R31): the one written, or else the free value of the last reset (R343). -/
def State.readDigit (s : State) (a : Nat) : Nat :=
  match Memory.find s.dmem a with
  | some d => d.toNat % s.cfg.radix
  | none => (Config.freeDigit s.epoch a).toNat % s.cfg.radix

/-- Write one digit of DMEM. -/
def State.writeDigit (s : State) (a v : Nat) : State := { s with dmem := Memory.store s.dmem a (toDigit s.cfg v) }

/-- `MemRead(a, n)`: n digits, least-significant first (R15, R83). -/
def State.memRead (s : State) (a : Nat) : Nat → Nat
  | 0 => 0
  | n + 1 => s.readDigit a + s.cfg.radix * s.memRead (a + 1) n

/-- `MemWrite(a, n, v)`: the n digits of `wrap_n(v)`, least-significant first (R15, R83). -/
def State.memWrite (s : State) (a n v : Nat) : State := { s with dmem := Memory.storeDigits s.cfg s.dmem a n v }

/-- `SP[k]` (R15, R33). -/
def State.span (s : State) (k : SpanReg) : Span := s.sp[k]

/-- Replace a whole descriptor. -/
def State.setSpan (s : State) (k : SpanReg) (p : Span) : State := { s with sp := s.sp.set k p }

/-- `SP[k].EXT <- e` (R15). -/
def State.setExt (s : State) (k : SpanReg) (e : Bool) : State := s.setSpan k { s.span k with ext := e }

/-! ### The end of a command -/

/-- `end_command()`: BUSY <- 0 and DONE <- 1 (R307). -/
def State.endCommand (s : State) : State := { s with inFlight := none, done := true }

/-- `raise PrecondError(code)` on the command word c (R303): the one way of taking an error. R317: a record of it stays. -/
def State.abort (s : State) (c : Word) (code : ErrCode) : State :=
  State.endCommand { s with err := true, errCode := code, errCmd := c, everAborted := true }

/-- What ERRCLR clears (R305): the return from an error. The record of R317 stays. -/
def State.clearErr (s : State) : State := { s with err := false, errCode := .none, errCmd := 0 }

/-- The code under which a word that does not decode aborts (R122). -/
def ErrCode.ofDecode : DecodeError → ErrCode
  | .illegalOpcode => .illegalOpcode
  | .reservedField => .reservedField

/-! ### Checks (R302) -/

/-- The code of the first check that fails: each check is whether it passes, and its code. -/
def firstFailure : List (Bool × ErrCode) → Option ErrCode
  | [] => none
  | (pass, code) :: rest => if pass then firstFailure rest else some code

/-- R302: run the checks of the command word c in order; on a failure abort with the first one's code and no other effect,
else perform the operation. -/
def checked (c : Word) (checks : List (Bool × ErrCode)) (op : State → State) (s : State) : State :=
  match firstFailure checks with
  | none => op s
  | some code => s.abort c code

/-- The platform's reset input (R340): every piece of state takes its value of R50, whatever the engine was doing. The
parameters, the outside world's side and the record of R317 are no state of the block (log entry 7). -/
def State.applyReset (s : State) : State :=
  { State.afterReset s.cfg s.draws with
    events := s.events, readLog := s.readLog, everAborted := s.everAborted }

end Sys2Proof.Machine
end

