-- ==== Sys2Proof/Machine/Operands.lean ====
section
/-! DEFINITION. The span operand (R33, R36, R37): its digits, its values, and the checks on spans (R84, R87, R171). -/

namespace Sys2Proof.Machine

/-- COUNT as a number. -/
def Span.size (p : Span) : Nat := p.count.toNat

/-- BASE as a number. -/
def Span.start (p : Span) : Nat := p.base.toNat

/-- Whether a digit address is in `region(p)` (R87). -/
def Span.covers (p : Span) (a : Nat) : Bool := decide (p.start ≤ a ∧ a < p.start + p.size)

/-- R84: BASE + COUNT <= DMEM_DEPTH, with no wrap. -/
def Span.fits (c : Params) (p : Span) : Bool := decide (p.start + p.size ≤ c.depth)

/-- R87: the regions do not intersect; an empty region overlaps nothing. -/
def Span.disjoint (p q : Span) : Bool :=
  decide (p.size = 0 ∨ q.size = 0 ∨ p.start + p.size ≤ q.start ∨ q.start + q.size ≤ p.start)

/-- R88, R171 item 4: the sharing that INCS, DECS and MACD allow. -/
def Span.shareable (p q : Span) : Bool := p.disjoint q || decide (p.base = q.base)

/-- `rep(e)`: the digit whose W bits all equal e (R13). -/
def rep (c : Params) (e : Bool) : Nat := if e then c.radix - 1 else 0

/-- `digitAt(p, i)` (R36). -/
def State.digitAt (s : State) (p : Span) (i : Nat) : Nat :=
  if i < p.size then s.readDigit (p.start + i) else rep s.cfg p.ext

/-- B^n for a span of n digits. -/
def Span.modulus (c : Params) (p : Span) : Nat := c.radix ^ p.size

/-- `valu(p)`: the unsigned magnitude (R37). -/
def State.valu (s : State) (p : Span) : Nat := s.memRead p.start p.size

/-- `val(p) = valu(p) - EXT * B^n` (R37). -/
def State.val (s : State) (p : Span) : Int :=
  if p.ext then (s.valu p : Int) - (p.modulus s.cfg : Int) else (s.valu p : Int)

/-- SPAN_RANGE for the spans that have a role (R84, R302 item 2). -/
def rangeCheck (c : Params) (ps : List Span) : Bool × ErrCode := (ps.all (Span.fits c), .spanRange)

/-- COUNT (R302 item 4). -/
def countCheck (pass : Bool) : Bool × ErrCode := (pass, .count)

/-- EXT: every magnitude operand has EXT = 0 (R302 item 5). -/
def extCheck (ps : List Span) : Bool × ErrCode := (ps.all (fun p => !p.ext), .ext)

/-- OVERLAP (R302 item 6). -/
def overlapCheck (pass : Bool) : Bool × ErrCode := (pass, .overlap)

/-- Write the n digits of `wrap_n(v)` into the region of SP[k] and set its EXT (R86, R89). -/
def State.writeSpan (s : State) (k : SpanReg) (v : Nat) (e : Bool) : State :=
  (s.memWrite (s.span k).start (s.span k).size v).setExt k e

end Sys2Proof.Machine
end

