-- ==== Sys2Proof/Machine/Flags.lean ====
section
/-! DEFINITION. The overflow-flag unit (R150, R156), and the write-back of the adder with its overflow rule (R170). -/

namespace Sys2Proof.Machine

/-- `complete(ovf)` (R150). What the operation leaves in the scratch storage is a free value (R47; log entry 4). -/
def State.complete (s : State) (ovf : Bool) : State :=
  State.endCommand
    { s with
      ovf := ovf, sticky := s.sticky || ovf, scratch := Config.freeScratch s.draws, draws := s.draws + 1 }

/-- CLRF's effect on the flags (R156). -/
def State.clearFlags (s : State) : State := { s with ovf := false, sticky := false }

/-- `wrap_n(R)` for B^n = m (R13). -/
def wrap (m : Nat) (r : Int) : Nat := (r % (m : Int)).toNat

/-- R170: whether R lies outside the result range of B^n = m. -/
def overflows (range : Range) (m : Nat) (r : Int) : Bool :=
  match range with
  | .unsigned => !decide (0 ≤ r ∧ r < (m : Int))
  | .signed => !decide (-((m : Int) / 2) ≤ r ∧ r < (m : Int) / 2)

/-- R170: the EXT that write-back leaves for the wrapped value w of `bits` = n*W bits: 0, or w's top bit. -/
def resultExt (range : Range) (bits w : Nat) : Bool :=
  match range with
  | .unsigned => false
  | .signed => w.testBit (bits - 1)

/-- `complete(WB(SP[k], R, S))` (R170, R150). -/
def State.writeBack (s : State) (k : SpanReg) (range : Range) (r : Int) : State :=
  let p := s.span k
  let m := p.modulus s.cfg
  let w := wrap m r
  State.complete (s.writeSpan k w (resultExt range (p.size * s.cfg.bits) w)) (overflows range m r)

end Sys2Proof.Machine
end

