-- ==== Sys2Proof/Machine/Adder.lean ====
section
/-! DEFINITION. The adder commands (R171 to R177). -/

namespace Sys2Proof.Machine

/-- R171 items 1 and 2 for a command whose only span is the destination. -/
def destinationChecks (s : State) (sd : Span) : List (Bool × ErrCode) :=
  [rangeCheck s.cfg [sd], countCheck (decide (1 ≤ sd.size))]

/-- R171 items 1, 2 and 4 for INCS and DECS. -/
def spanPairChecks (s : State) (sd sa : Span) : List (Bool × ErrCode) :=
  [rangeCheck s.cfg [sd, sa], countCheck (decide (1 ≤ sd.size)), overlapCheck (sa.shareable sd)]

/-- R171 items 1 to 4 for MACD. -/
def macdChecks (s : State) (sd sa : Span) : List (Bool × ErrCode) :=
  [rangeCheck s.cfg [sd, sa], countCheck (decide (1 ≤ sd.size ∧ sa.size ≤ sd.size)), extCheck [sd, sa],
    overlapCheck (sa.shareable sd)]

/-- R172: INCD. -/
def execIncd (range : Range) (sd : SpanReg) (d : DigitReg) (s : State) : Host.Outcome State Fault Refusal :=
  .next (checked (encode (.incd range sd d)) (destinationChecks s (s.span sd))
    (fun s => s.writeBack sd range (s.val (s.span sd) + s.readDr d)) s)

/-- R173: DECD. -/
def execDecd (range : Range) (sd : SpanReg) (d : DigitReg) (s : State) : Host.Outcome State Fault Refusal :=
  .next (checked (encode (.decd range sd d)) (destinationChecks s (s.span sd))
    (fun s => s.writeBack sd range (s.val (s.span sd) - s.readDr d)) s)

/-- R174: INCS. -/
def execIncs (range : Range) (sd sa : SpanReg) (s : State) : Host.Outcome State Fault Refusal :=
  .next (checked (encode (.incs range sd sa)) (spanPairChecks s (s.span sd) (s.span sa))
    (fun s => s.writeBack sd range (s.val (s.span sd) + s.val (s.span sa))) s)

/-- R175: DECS. -/
def execDecs (range : Range) (sd sa : SpanReg) (s : State) : Host.Outcome State Fault Refusal :=
  .next (checked (encode (.decs range sd sa)) (spanPairChecks s (s.span sd) (s.span sa))
    (fun s => s.writeBack sd range (s.val (s.span sd) - s.val (s.span sa))) s)

/-- R176: NEG. -/
def execNeg (range : Range) (sd : SpanReg) (s : State) : Host.Outcome State Fault Refusal :=
  .next (checked (encode (.neg range sd)) (destinationChecks s (s.span sd))
    (fun s => s.writeBack sd range (-s.val (s.span sd))) s)

/-- The end that MACD (R177) and MULD (R212) share: the low digits of R to SP[sd] with EXT 0, the rest R div B^n to
DR[carry], and OVF set when that is not 0. -/
def State.writeWithCarry (s : State) (sd : SpanReg) (carry : DigitReg) (r : Nat) : State :=
  let m := (s.span sd).modulus s.cfg
  State.complete ((s.writeSpan sd (r % m) false).writeDr carry (r / m)) (decide (r / m ≠ 0))

/-- R177: MACD. -/
def execMacd (sd sa : SpanReg) (m a carry : DigitReg) (s : State) : Host.Outcome State Fault Refusal :=
  .next (checked (encode (.macd sd sa m a carry)) (macdChecks s (s.span sd) (s.span sa))
    (fun s => s.writeWithCarry sd carry (s.valu (s.span sd) + s.valu (s.span sa) * s.readDr m + s.readDr a)) s)

end Sys2Proof.Machine
end

