-- ==== Sys2Proof/Machine/Control.lean ====
section
/-! DEFINITION. NOP and CLRF (R155, R156). -/

namespace Sys2Proof.Machine

/-- R155: NOP does nothing but end. -/
def execNop (s : State) : Host.Outcome State Fault Refusal := .next s.endCommand

/-- R156: CLRF clears OVF and STICKY, and not ERR. -/
def execClrf (s : State) : Host.Outcome State Fault Refusal := .next s.clearFlags.endCommand

end Sys2Proof.Machine
end

