-- ==== Sys2Proof/Machine/Multiply.lean ====
section
/-! DEFINITION. The multiply commands (R210 to R214). -/

namespace Sys2Proof.Machine

/-- R210, R211, R250: the two output DRs must differ. -/
def outputChecks (x y : DigitReg) : List (Bool × ErrCode) := [overlapCheck (decide (x ≠ y))]

/-- R212, R251, R252: SPAN_RANGE, COUNT and EXT for one magnitude span. -/
def magnitudeChecks (s : State) (p : Span) : List (Bool × ErrCode) :=
  [rangeCheck s.cfg [p], countCheck (decide (1 ≤ p.size)), extCheck [p]]

/-- R213: the checks of MUL. -/
def mulChecks (s : State) (sd sa sb : Span) : List (Bool × ErrCode) :=
  [rangeCheck s.cfg [sd, sa, sb],
    countCheck (decide (1 ≤ sa.size ∧ 1 ≤ sb.size ∧ sd.size = sa.size + sb.size)),
    extCheck [sa, sb],
    overlapCheck (sd.disjoint sa && sd.disjoint sb)]

/-- R214: the checks of SQR. -/
def sqrChecks (s : State) (sd sa : Span) : List (Bool × ErrCode) :=
  [rangeCheck s.cfg [sd, sa],
    countCheck (decide (1 ≤ sa.size ∧ sd.size = 2 * sa.size)),
    extCheck [sa],
    overlapCheck (sd.disjoint sa)]

/-- R210: MULP. -/
def execMulp (lo hi x y : DigitReg) (s : State) : Host.Outcome State Fault Refusal :=
  .next (checked (encode (.mulp lo hi x y)) (outputChecks lo hi)
    (fun s =>
      let p := s.readDr x * s.readDr y
      State.complete ((s.writeDr lo (p % s.cfg.radix)).writeDr hi (p / s.cfg.radix)) false) s)

/-- R211: MULPA. -/
def execMulpa (lo hi x y z : DigitReg) (s : State) : Host.Outcome State Fault Refusal :=
  .next (checked (encode (.mulpa lo hi x y z)) (outputChecks lo hi)
    (fun s =>
      let p := s.readDr x * s.readDr y + s.readDr z
      State.complete ((s.writeDr lo (p % s.cfg.radix)).writeDr hi (p / s.cfg.radix)) false) s)

/-- R212: MULD. -/
def execMuld (sd : SpanReg) (m a carry : DigitReg) (s : State) : Host.Outcome State Fault Refusal :=
  .next (checked (encode (.muld sd m a carry)) (magnitudeChecks s (s.span sd))
    (fun s => s.writeWithCarry sd carry (s.valu (s.span sd) * s.readDr m + s.readDr a)) s)

/-- R213: MUL. ALG chooses the internal algorithm and changes no result (R216); Algorithms.lean has the algorithms. -/
def execMul (sd sa sb : SpanReg) (alg : AlgField) (s : State) : Host.Outcome State Fault Refusal :=
  .next (checked (encode (.mul sd sa sb alg)) (mulChecks s (s.span sd) (s.span sa) (s.span sb))
    (fun s => State.complete (s.writeSpan sd (s.valu (s.span sa) * s.valu (s.span sb)) false) false) s)

/-- R214: SQR. -/
def execSqr (sd sa : SpanReg) (alg : AlgField) (s : State) : Host.Outcome State Fault Refusal :=
  .next (checked (encode (.sqr sd sa alg)) (sqrChecks s (s.span sd) (s.span sa))
    (fun s => State.complete (s.writeSpan sd (s.valu (s.span sa) ^ 2) false) false) s)

end Sys2Proof.Machine
end

