-- ==== Sys2Proof/Machine/Divide.lean ====
section
/-! DEFINITION. The divide commands (R250 to R254). -/

namespace Sys2Proof.Machine

/-- R253: the checks of LDIV before the zero test. -/
def ldivChecks (s : State) (sq sr sa sb : Span) : List (Bool × ErrCode) :=
  [rangeCheck s.cfg [sq, sr, sa, sb],
    (decide (sb.size < sa.size), .dividendNotWider),
    countCheck (decide (1 ≤ sb.size ∧ sq.size = sa.size - sb.size + 1 ∧ sr.size = sb.size)),
    extCheck [sa, sb],
    overlapCheck (sq.disjoint sr && sq.disjoint sa && sq.disjoint sb && sr.disjoint sa && sr.disjoint sb)]

/-- R253 item 6: V = 0, or the top divisor digit is not 0. -/
def normalCheck (s : State) (sb : Span) : Bool × ErrCode :=
  (decide (s.valu sb = 0 ∨ s.readDigit (sb.start + sb.size - 1) ≠ 0), .divisorNotNormal)

/-- The quotient of R250 to R253: 0 for a zero divisor (R254). -/
def quotient (u v : Nat) : Nat := if v = 0 then 0 else u / v

/-- The remainder of R250 to R253: for a zero divisor the dividend truncated to the remainder's width, `low` (R254). -/
def remainder (u v low : Nat) : Nat := if v = 0 then low else u % v

/-- R250: DIVP. -/
def execDivp (q r h l v : DigitReg) (s : State) : Host.Outcome State Fault Refusal :=
  .next (checked (encode (.divp q r h l v)) (outputChecks q r)
    (fun s =>
      let n := s.readDr h * s.cfg.radix + s.readDr l
      let d := s.readDr v
      State.complete ((s.writeDr q (quotient n d % s.cfg.radix)).writeDr r (remainder n d (s.readDr l)))
        (decide (d = 0 ∨ s.cfg.radix ≤ quotient n d))) s)

/-- R251: DIVD. -/
def execDivd (sd : SpanReg) (v r : DigitReg) (s : State) : Host.Outcome State Fault Refusal :=
  .next (checked (encode (.divd sd v r)) (magnitudeChecks s (s.span sd))
    (fun s =>
      let u := s.valu (s.span sd)
      let d := s.readDr v
      State.complete ((s.writeSpan sd (quotient u d) false).writeDr r (remainder u d (u % s.cfg.radix)))
        (decide (d = 0))) s)

/-- R252: REMD; the span is read only. -/
def execRemd (sa : SpanReg) (v r : DigitReg) (s : State) : Host.Outcome State Fault Refusal :=
  .next (checked (encode (.remd sa v r)) (magnitudeChecks s (s.span sa))
    (fun s =>
      let u := s.valu (s.span sa)
      let d := s.readDr v
      State.complete (s.writeDr r (remainder u d (u % s.cfg.radix))) (decide (d = 0))) s)

/-- R253: LDIV. -/
def execLdiv (sq sr sa sb : SpanReg) (s : State) : Host.Outcome State Fault Refusal :=
  .next (checked (encode (.ldiv sq sr sa sb))
    (ldivChecks s (s.span sq) (s.span sr) (s.span sa) (s.span sb) ++ [normalCheck s (s.span sb)])
    (fun s =>
      let u := s.valu (s.span sa)
      let v := s.valu (s.span sb)
      State.complete
        ((s.writeSpan sq (quotient u v) false).writeSpan sr
          (remainder u v (u % (s.span sb).modulus s.cfg)) false)
        (decide (v = 0))) s)

end Sys2Proof.Machine
end

