-- ==== Sys2Proof/Machine/Dispatch.lean ====
section
/-! DEFINITION. Which meaning each command has: one arm per constructor of Instr. -/

namespace Sys2Proof.Machine

/-- What a command does that was accepted, not discarded, and decoded (R302). -/
def exec (i : Instr) (s : State) : Host.Outcome State Fault Refusal :=
  match i with
  | .nop => Sys2Proof.Machine.execNop s
  | .clrf => Sys2Proof.Machine.execClrf s
  | .incd range sd d => Sys2Proof.Machine.execIncd range sd d s
  | .decd range sd d => Sys2Proof.Machine.execDecd range sd d s
  | .incs range sd sa => Sys2Proof.Machine.execIncs range sd sa s
  | .decs range sd sa => Sys2Proof.Machine.execDecs range sd sa s
  | .neg range sd => Sys2Proof.Machine.execNeg range sd s
  | .macd sd sa m a carry => Sys2Proof.Machine.execMacd sd sa m a carry s
  | .mulp lo hi x y => Sys2Proof.Machine.execMulp lo hi x y s
  | .mulpa lo hi x y z => Sys2Proof.Machine.execMulpa lo hi x y z s
  | .muld sd m a carry => Sys2Proof.Machine.execMuld sd m a carry s
  | .mul sd sa sb alg => Sys2Proof.Machine.execMul sd sa sb alg s
  | .sqr sd sa alg => Sys2Proof.Machine.execSqr sd sa alg s
  | .divp q r h l v => Sys2Proof.Machine.execDivp q r h l v s
  | .divd sd v r => Sys2Proof.Machine.execDivd sd v r s
  | .remd sa v r => Sys2Proof.Machine.execRemd sa v r s
  | .ldiv sq sr sa sb => Sys2Proof.Machine.execLdiv sq sr sa sb s

end Sys2Proof.Machine
end

