-- ==== Sys2Proof/Machine/Engine.lean ====
section
/-! DEFINITION. What the engine does with the command in flight (R302, R304), and the host's preparation that makes the
engine run a given word next. -/

namespace Sys2Proof.Machine

/-- R302 for the accepted word c: discard it while ERR = 1 (R304), abort it when it does not decode, else run it. -/
def runCommand (c : Word) (s : State) : Host.Outcome State Fault Refusal :=
  if s.err then .next s.endCommand
  else
    match decode c with
    | .ok i => exec i s
    | .error e => .next (s.abort c (ErrCode.ofDecode e))

/-- The event as one that comes after the command in flight has ended. -/
def HostEvent.late (ev : HostEvent) : HostEvent := { ev with early := false }

/-- The host's side of issuing the word c (R342, R346): the ERR latch cleared if it was set, and the CMD write accepted
(R44), with what the outside world does next coming after the command has ended. -/
def State.issue (s : State) (c : Word) : State :=
  { (if s.err then s.clearErr else s) with inFlight := some c, events := s.events.map HostEvent.late }

end Sys2Proof.Machine
end

