-- ==== Sys2Proof/Machine/HostPort.lean ====
section
/-! DEFINITION. The host port: the register map (R48, R49, R82, R90), what a read returns and what a write does
(R34, R35, R39 to R46, R92), and the IRQ line (R46). -/

namespace Sys2Proof.Machine

/-- What a word of the host address space is (R48, R49). -/
inductive PortReg where
  | id
  | cfgDepth
  | cfgKthresh
  | cfgCounts
  | ctrl
  | status
  | cmd
  | errCmd
  | spBase (n : SpanReg)
  | spCount (n : SpanReg)
  | spExt (n : SpanReg)
  | drLo (k : DigitReg)
  | drHi (k : DigitReg)
  | dmemLo (i : Nat)
  | dmemHi (i : Nat)
  | reserved
deriving DecidableEq, Repr

/-- A register number from an offset. -/
def regNum (n : Nat) : Fin 8 := ⟨n % 8, Nat.mod_lt _ (by decide)⟩

/-- The register at the word-aligned byte offset o (R48); every other offset is reserved (R49). -/
def portRegAt (c : Params) (o : Nat) : PortReg :=
  if o < 0x20 then
    match o / 4 with
    | 0 => .id
    | 1 => .cfgDepth
    | 2 => .cfgKthresh
    | 3 => .cfgCounts
    | 4 => .ctrl
    | 5 => .status
    | 6 => .cmd
    | _ => .errCmd
  else if 0x40 ≤ o ∧ o < 0xC0 then
    match (o - 0x40) % 16 / 4 with
    | 0 => .spBase (regNum ((o - 0x40) / 16))
    | 1 => .spCount (regNum ((o - 0x40) / 16))
    | 2 => .spExt (regNum ((o - 0x40) / 16))
    | _ => .reserved
  else if 0x100 ≤ o ∧ o < 0x140 then
    if (o - 0x100) % 8 < 4 then .drLo (regNum ((o - 0x100) / 8)) else .drHi (regNum ((o - 0x100) / 8))
  else if 0x1000 ≤ o ∧ o < 0x1000 + 8 * c.depth then
    if (o - 0x1000) % 8 < 4 then .dmemLo ((o - 0x1000) / 8) else .dmemHi ((o - 0x1000) / 8)
  else .reserved

/-- R90: an access at offset o goes to the word at o - (o mod 4). -/
def portReg (c : Params) (o : Nat) : PortReg := portRegAt c (o - o % 4)

/-- The offset of an absolute host address from UMN_BASE (R48, R93); an address below the base is no access to this
block. -/
def portOffset (c : Params) (addr : Nat) : Option Nat := if c.umnBase ≤ addr then some (addr - c.umnBase) else none

/-! ### The packed registers -/

/-- R301: the number of an error code. -/
def ErrCode.number : ErrCode → Nat
  | .none => 0x00
  | .illegalOpcode => 0x01
  | .reservedField => 0x02
  | .spanRange => 0x03
  | .dividendNotWider => 0x04
  | .count => 0x05
  | .ext => 0x06
  | .overlap => 0x07
  | .divisorNotNormal => 0x08

/-- STATUS.BUSY (R39, R47). -/
def State.busy (s : State) : Bool := s.inFlight.isSome

/-- STATUS as the host reads it (R39). -/
def State.statusWord (s : State) : Word :=
  BitVec.ofNat 32 (s.busy.toNat + 2 * s.done.toNat + 4 * s.ovf.toNat + 8 * s.sticky.toNat + 16 * s.err.toNat
    + 256 * s.errCode.number)

/-- CTRL as the host reads it: ERRCLR and the reserved bits read 0 (R40). -/
def State.ctrlWord (s : State) : Word := BitVec.ofNat 32 (s.ieDone.toNat + 2 * s.ieErr.toNat)

/-- ID (R41). -/
def idWord (c : Params) : Word := BitVec.ofNat 32 (0x554D * 2 ^ 16 + 0x01 * 2 ^ 8 + c.bits)

/-- CFG_DEPTH (R42). -/
def cfgDepthWord (c : Params) : Word := BitVec.ofNat 32 c.depth

/-- CFG_KTHRESH (R42). -/
def cfgKthreshWord : Word := BitVec.ofNat 32 Config.kthresh

/-- CFG_COUNTS (R42). -/
def cfgCountsWord : Word := BitVec.ofNat 32 (Config.nspan + Config.ndr * 2 ^ 8)

/-- The level of the IRQ output (R46). -/
def State.irq (s : State) : Bool := (s.done && s.ieDone) || (s.err && s.ieErr)

/-! ### The two word slots of a W-bit value (R34) -/

/-- LO as it reads: `v[min(W,32)-1:0]`, zero-extended. -/
def loSlot (c : Params) (v : Nat) : Word := BitVec.ofNat 32 (v % 2 ^ min c.bits 32)

/-- HI as it reads: `v[63:32]` when W = 64, else 0. -/
def hiSlot (c : Params) (v : Nat) : Word := if c.bits = 64 then BitVec.ofNat 32 (v / 2 ^ 32) else 0

/-- The value after a write to LO, which sets `v[min(W,32)-1:0]`. -/
def withLo (c : Params) (v : Nat) (x : Word) : Nat :=
  v / 2 ^ min c.bits 32 * 2 ^ min c.bits 32 + x.toNat % 2 ^ min c.bits 32

/-- The value after a write to HI of a 64-bit digit, which sets `v[63:32]`. -/
def withHi (v : Nat) (x : Word) : Nat := v % 2 ^ 32 + x.toNat * 2 ^ 32

/-! ### Reads and writes -/

/-- What a host read of a register returns. Reads have no side effects (R92). -/
def State.portRead (s : State) : PortReg → Word
  | .id => idWord s.cfg
  | .cfgDepth => cfgDepthWord s.cfg
  | .cfgKthresh => cfgKthreshWord
  | .cfgCounts => cfgCountsWord
  | .ctrl => s.ctrlWord
  | .status => s.statusWord
  | .cmd => 0
  | .errCmd => s.errCmd
  | .spBase n => (s.span n).base
  | .spCount n => (s.span n).count
  | .spExt n => BitVec.ofNat 32 (s.span n).ext.toNat
  | .drLo k => loSlot s.cfg (s.readDr k)
  | .drHi k => hiSlot s.cfg (s.readDr k)
  | .dmemLo i => loSlot s.cfg (s.readDigit i)
  | .dmemHi i => hiSlot s.cfg (s.readDigit i)
  | .reserved => 0

/-- A write to CTRL (R40, R305): the enables, and ERRCLR when bit 8 is 1. -/
def State.writeCtrl (s : State) (v : Word) : State :=
  let t := { s with ieDone := v.getLsbD 0, ieErr := v.getLsbD 1 }
  if v.getLsbD 8 then t.clearErr else t

/-- A write to STATUS: writing 1 to DONE clears it, everything else is ignored (R39). -/
def State.writeStatus (s : State) (v : Word) : State := { s with done := s.done && !v.getLsbD 1 }

/-- What a host write of the word v to a register does. A write to CMD is accepted: BUSY rises (R44, R302, R307). A write
to HI is ignored when W < 64 (R34). -/
def State.portWrite (s : State) (r : PortReg) (v : Word) : State :=
  match r with
  | .id => s
  | .cfgDepth => s
  | .cfgKthresh => s
  | .cfgCounts => s
  | .ctrl => s.writeCtrl v
  | .status => s.writeStatus v
  | .cmd => { s with inFlight := some v }
  | .errCmd => s
  | .spBase n => s.setSpan n { s.span n with base := v }
  | .spCount n => s.setSpan n { s.span n with count := v }
  | .spExt n => s.setSpan n { s.span n with ext := v.getLsbD 0 }
  | .drLo k => s.writeDr k (withLo s.cfg (s.readDr k) v)
  | .drHi k => if s.cfg.bits = 64 then s.writeDr k (withHi (s.readDr k) v) else s
  | .dmemLo i => s.writeDigit i (withLo s.cfg (s.readDigit i) v)
  | .dmemHi i => if s.cfg.bits = 64 then s.writeDigit i (withHi (s.readDigit i) v) else s
  | .reserved => s

/-- One thing the outside world does, once it is served. -/
def State.serve (s : State) : HostOp → State
  | .read addr =>
    match portOffset s.cfg addr with
    | some o => { s with readLog := s.portRead (portReg s.cfg o) :: s.readLog }
    | none => s
  | .write addr v =>
    match portOffset s.cfg addr with
    | some o => s.portWrite (portReg s.cfg o) v
    | none => s
  | .reset => s.applyReset

/-- Whether a host access waits while a command is in flight: every one but a read of STATUS (R44, R90). The reset input
is no access and never waits (R340), nor does an address that is not this block's. -/
def stalls (c : Params) : HostOp → Bool
  | .read addr =>
    match portOffset c addr with
    | some o => decide (portReg c o ≠ .status)
    | none => false
  | .write addr _ => (portOffset c addr).isSome
  | .reset => false

end Sys2Proof.Machine
end

