-- ==== Sys2Proof/Machine/Step.lean ====
section
/-! DEFINITION. One step of the machine: the outside world's next act, or the whole of the command in flight, which is one
atomic step of the engine (R348). -/

namespace Sys2Proof.Machine

/-- With a command in flight the engine runs it, unless the outside world's next act comes before its end and does not
stall (R90, R340). With none in flight the outside world acts, and if it does nothing the engine keeps its state (R316).
DESIGN CHOICE, log entry 22: the spec does not say what becomes of an access that is stalled when reset is asserted. Only
the head of `events` can come before the command's end, so a reset listed behind a stalled access takes effect after the
command and that access; a reset that abandons the command is listed before the access, or the access is not listed. -/
def step (s : State) : Host.Outcome State Fault Refusal :=
  match s.inFlight, s.events with
  | some c, [] => runCommand c s
  | some c, ev :: rest =>
    if ev.early && !stalls s.cfg ev.op then .next (State.serve { s with events := rest } ev.op) else runCommand c s
  | none, [] => .next s
  | none, ev :: rest => .next (State.serve { s with events := rest } ev.op)

/-- The state whose very next step runs the command word w: the host has issued it (log entry 8). -/
def State.withFetchWord (s : State) (nbits w : Nat) : State := s.issue (BitVec.ofNat 32 (w % 2 ^ nbits))

end Sys2Proof.Machine
end

