-- ==== Sys2Proof/Machine/Algorithms.lean ====
section
/-! DEFINITION. The internal algorithms the spec describes beside the commands: the carry-propagate chain (R177, R178,
R212), schoolbook and Karatsuba multiplication and the squares (R216 to R219), the digit divider (R255) and normalized
long division (R256). The commands are defined by their own rules; these say how the engine gets the same results, and
what a run keeps in its scratch storage (R47) is the local data here. -/

namespace Sys2Proof.Machine

/-! ### Digit lists -/

/-- The value of a digit list, least-significant first (R83). -/
def listValue (b : Nat) : List Nat → Nat
  | [] => 0
  | d :: ds => d + b * listValue b ds

/-- The n low digits of v, least-significant first. -/
def digitsOf (b v : Nat) : Nat → List Nat
  | 0 => []
  | n + 1 => v % b :: digitsOf b (v / b) n

/-! ### The carry-propagate chain -/

/-- R178: `len` steps from index j with carry c, over the digits x of the destination and y of the other operand. -/
def addChain (b : Nat) (sub : Bool) (x y : Nat → Nat) (j c : Nat) : Nat → List Nat
  | 0 => []
  | len + 1 =>
    let t := x j + (if sub then b - 1 - y j else y j) + c
    t % b :: addChain b sub x y (j + 1) (t / b) len

/-- R178: the exact result, read from the chain's `len` digits of `bits` bits as a signed number. -/
def chainResult (bits len : Nat) (out : List Nat) : Int :=
  (listValue (2 ^ bits) out : Int) - (((out.getD (len - 1) 0).testBit (bits - 1)).toNat : Int) * (2 ^ bits) ^ len

/-- R178: the whole adder: the chain over `max(n, m) + 1` digits, with c starting at `sub`. -/
def adderResult (bits : Nat) (sub : Bool) (n m : Nat) (x y : Nat → Nat) : Int :=
  chainResult bits (max n m + 1) (addChain (2 ^ bits) sub x y 0 sub.toNat (max n m + 1))

/-- The multiply-accumulate chain of MACD (R178) and of MULD (R212): n digits and the last carry. -/
def macChain (b m : Nat) (x y : Nat → Nat) (j c : Nat) : Nat → List Nat × Nat
  | 0 => ([], c)
  | n + 1 =>
    let t := x j + y j * m + c
    let rest := macChain b m x y (j + 1) (t / b) n
    (t % b :: rest.1, rest.2)

/-! ### Multiplication -/

/-- One row of R217: the multiplicand's digits times `d` added into the product's digits, the carry after them. -/
def longRow (b d : Nat) : List Nat → List Nat → Nat → List Nat
  | x :: xs, p :: ps, c =>
    let t := p + x * d + c
    t % b :: longRow b d xs ps (t / b)
  | [], _ :: ps, c => c :: ps
  | _, [], c => [c]

/-- R217: the rows for the multiplier's digits, each one place further up the product p. -/
def longRows (b : Nat) (xs : List Nat) : List Nat → List Nat → List Nat
  | [], p => p
  | d :: ds, p =>
    match longRow b d xs p 0 with
    | [] => []
    | q :: qs => q :: longRows b xs ds qs

/-- R217: schoolbook multiplication into zeroed scratch of n + m digits (R215). -/
def longProduct (b : Nat) (xs ys : List Nat) : List Nat :=
  longRows b xs ys (List.replicate (xs.length + ys.length) 0)

/-- LONG(lhs, rhs) on values of n and m digits. -/
def long (b l n r m : Nat) : Nat := listValue b (longProduct b (digitsOf b l n) (digitsOf b r m))

/-- |x - y|. -/
def absDiff (x y : Nat) : Nat := if x < y then y - x else x - y

/-- KMUL of R218 with the selection of R216: `force` takes the Karatsuba step whatever the threshold `t`. `fuel` bounds
the recursion depth (R348); when it runs out the base case is taken. DESIGN CHOICE, log entry 21: R218 does not give the
digit counts of |b - a| and |y - x| that the selection of R216 needs, and each takes the larger count of its two halves. -/
def kmul (b t : Nat) : Nat → Bool → Nat → Nat → Nat → Nat → Nat
  | 0, _, l, n, r, m => long b l n r m
  | fuel + 1, force, l, n, r, m =>
    if !force && (decide (n < t) || decide (m < t)) then long b l n r m
    else
      let k := (n + m) / 4
      let kn := min k n
      let km := min k m
      let lo := l % b ^ kn
      let hi := l / b ^ kn
      let x := r % b ^ km
      let y := r / b ^ km
      let low := kmul b t fuel false lo kn x km
      let high := kmul b t fuel false hi (n - kn) y (m - km)
      let cross := kmul b t fuel false (absDiff hi lo) (max kn (n - kn)) (absDiff y x) (max km (m - km))
      let mid := if (decide (hi < lo)) != (decide (y < x)) then low + high + cross else low + high - cross
      low + mid * b ^ k + high * b ^ (2 * k)

/-- R216: what the engine computes for MUL with the given ALG. -/
def mulEngine (b t alg l n r m : Nat) : Nat :=
  if alg = 1 then long b l n r m else kmul b t (n + m) (decide (alg = 2)) l n r m

/-- R219: the doubled products of one digit with the digits above it, the first of them at weight b^1. -/
def crossTerms (b d : Nat) : List Nat → Nat
  | [] => 0
  | x :: xs => b * (2 * d * x + crossTerms b d xs)

/-- R219: the schoolbook square. -/
def longSquare (b : Nat) : List Nat → Nat
  | [] => 0
  | x :: xs => x ^ 2 + crossTerms b x xs + b ^ 2 * longSquare b xs

/-- R219 with the selection of R216: the Karatsuba square. The split index is that of R218 with m = n, and |b - a| takes the
larger count of the two halves (DESIGN CHOICE, log entry 21). -/
def ksqr (b t : Nat) : Nat → Bool → Nat → Nat → Nat
  | 0, _, l, n => longSquare b (digitsOf b l n)
  | fuel + 1, force, l, n =>
    if !force && decide (n < t) then longSquare b (digitsOf b l n)
    else
      let k := (n + n) / 4
      let lo := l % b ^ k
      let hi := l / b ^ k
      let low := ksqr b t fuel false lo k
      let high := ksqr b t fuel false hi (n - k)
      let mid := low + high - ksqr b t fuel false (absDiff hi lo) (max k (n - k))
      low + mid * b ^ k + high * b ^ (2 * k)

/-- R216, R219: what the engine computes for SQR with the given ALG. -/
def sqrEngine (b t alg l n : Nat) : Nat :=
  if alg = 1 then longSquare b (digitsOf b l n) else ksqr b t (n + n) (decide (alg = 2)) l n

/-! ### Division -/

/-- R255: from the most-significant digit down; the quotient's digits most-significant first, and the remainder. -/
def digitDivide (b v r : Nat) : List Nat → List Nat × Nat
  | [] => ([], r)
  | d :: ds =>
    let n := r * b + d
    let rest := digitDivide b v (n % v) ds
    (n / v :: rest.1, rest.2)

/-- R256: the correction loop `while window < 0`; the estimate, the window and how often the divisor was added back.
`qh` itself bounds the loop. -/
def addBack (v : Int) : Nat → Int → Nat × Int × Nat
  | 0, w => (0, w, 0)
  | qh + 1, w =>
    if w < 0 then
      let rest := addBack v qh (w + v)
      (rest.1, rest.2.1, rest.2.2 + 1)
    else (qh + 1, w, 0)

/-- R256: the estimate of one quotient digit from the window's two top digits and the divisor's top digit. -/
def estimate (b top nxt vtop : Nat) : Nat := if top = vtop then b - 1 else (top * b + nxt) / vtop

/-- R256: one quotient digit from the (m+1)-digit window x of the dividend. -/
def longDivDigit (b v m x : Nat) : Nat × Int × Nat :=
  let qh := estimate b (x / b ^ m) (x / b ^ (m - 1) % b) (v / b ^ (m - 1))
  addBack v qh ((x : Int) - (qh : Int) * (v : Int))

/-- R256: the loop over the quotient positions, high to low; `j` positions are left. The quotient's digits
least-significant first, the remainder, and the corrections of each digit. -/
def longDivLoop (b v m : Nat) : Nat → Nat → List Nat × Nat × List Nat
  | 0, u => ([], u, [])
  | j + 1, u =>
    let d := longDivDigit b v m (u / b ^ j)
    let rest := longDivLoop b v m j (d.2.1.toNat * b ^ j + u % b ^ j)
    (rest.1 ++ [d.1], rest.2.1, rest.2.2 ++ [d.2.2])

/-- R256: the shift that sets the top bit of the divisor's top digit. -/
def normalShift (bits top : Nat) : Nat := bits - top.size

/-- R256: the n-digit u by the m-digit v, digits of `bits` bits: the quotient's digits, the remainder and the corrections. -/
def longDivide (bits u n v m : Nat) : List Nat × Nat × List Nat :=
  let b := 2 ^ bits
  let sh := normalShift bits (v / b ^ (m - 1))
  let r := longDivLoop b (v * 2 ^ sh) m (n - m + 1) (u * 2 ^ sh)
  (r.1, r.2.1 / 2 ^ sh, r.2.2)

end Sys2Proof.Machine
end

