-- ==== Sys2Proof/Machine/Assembler.lean ====
section
/-! DEFINITION. The assembler's view of the commands: the text of one command (R123) and the pseudo-instructions (R124). -/

namespace Sys2Proof

/-- The number of an operand field as text. -/
def numeral (n : Fin 8) : String :=
  match n with
  | 0 => "0" | 1 => "1" | 2 => "2" | 3 => "3" | 4 => "4" | 5 => "5" | 6 => "6" | 7 => "7"

/-- `spN` (R123). -/
def spText (n : SpanReg) : String := "sp" ++ numeral n

/-- `drN` (R123). -/
def drText (n : DigitReg) : String := "dr" ++ numeral n

/-- `.U` or `.S` (R123). -/
def Range.suffix : Range → String
  | .unsigned => ".U"
  | .signed => ".S"

/-- No suffix for ALG 0 (R123: a missing suffix means `.A`), `.L` for 1, `.K` for 2. -/
def algSuffix (alg : AlgField) : String :=
  if alg = 0 then "" else if alg = 1 then ".L" else ".K"

/-- `MNEMONIC op, op, ...` (R123). -/
def asmLine (mnemonic : String) (ops : List String) : String :=
  if ops.isEmpty then mnemonic else mnemonic ++ " " ++ ", ".intercalate ops

/-- The assembler text of a command, operands in field order (R123). -/
def assembly : Instr → String
  | .nop => asmLine "NOP" []
  | .clrf => asmLine "CLRF" []
  | .incd range sd d => asmLine ("INCD" ++ range.suffix) [spText sd, drText d]
  | .decd range sd d => asmLine ("DECD" ++ range.suffix) [spText sd, drText d]
  | .incs range sd sa => asmLine ("INCS" ++ range.suffix) [spText sd, spText sa]
  | .decs range sd sa => asmLine ("DECS" ++ range.suffix) [spText sd, spText sa]
  | .neg range sd => asmLine ("NEG" ++ range.suffix) [spText sd]
  | .macd sd sa m a carry => asmLine "MACD" [spText sd, spText sa, drText m, drText a, drText carry]
  | .mulp lo hi x y => asmLine "MULP" [drText lo, drText hi, drText x, drText y]
  | .mulpa lo hi x y z => asmLine "MULPA" [drText lo, drText hi, drText x, drText y, drText z]
  | .muld sd m a carry => asmLine "MULD" [spText sd, drText m, drText a, drText carry]
  | .mul sd sa sb alg => asmLine ("MUL" ++ algSuffix alg) [spText sd, spText sa, spText sb]
  | .sqr sd sa alg => asmLine ("SQR" ++ algSuffix alg) [spText sd, spText sa]
  | .divp q r h l v => asmLine "DIVP" [drText q, drText r, drText h, drText l, drText v]
  | .divd sd v r => asmLine "DIVD" [spText sd, drText v, drText r]
  | .remd sa v r => asmLine "REMD" [spText sa, drText v, drText r]
  | .ldiv sq sr sa sb => asmLine "LDIV" [spText sq, spText sr, spText sa, spText sb]

/-- The pseudo-instructions of R124. -/
inductive Pseudo where
  | add (range : Range) (sd sa : SpanReg)
  | sub (range : Range) (sd sa : SpanReg)
  | chk (range : Range) (sd : SpanReg) (z : DigitReg)
  | divmod (sd : SpanReg) (v r : DigitReg)
  | mull (sd sa sb : SpanReg)
  | mulk (sd sa sb : SpanReg)
deriving DecidableEq, Repr

/-- The expansions of R124. -/
def Pseudo.expand : Pseudo → Instr
  | .add range sd sa => .incs range sd sa
  | .sub range sd sa => .decs range sd sa
  | .chk range sd z => .incd range sd z
  | .divmod sd v r => .divd sd v r
  | .mull sd sa sb => .mul sd sa sb 1
  | .mulk sd sa sb => .mul sd sa sb 2

end Sys2Proof
end

