-- ==== Sys2Proof/Machine/Invariant.lean ====
section
/-! DEFINITION. The invariant of the machine's states: what every state that the spec allows meets. -/

namespace Sys2Proof.Machine

/-- What holds of every state reached from a reset, and is kept by every step. -/
structure State.Inv (s : State) : Prop where
  /-- R7, R8: the parameters are legal. -/
  params : s.cfg.ok = true
  /-- DMEM is in canonical form (log entry 5). -/
  dmemCanonical : Memory.wf s.dmem = true
  /-- R80, R86: no digit outside DMEM's DMEM_DEPTH digits was ever written. -/
  dmemInRange : ∀ x ∈ s.dmem, x.1 < s.cfg.depth
  /-- R31: each cell holds one W-bit digit. -/
  dmemDigits : ∀ x ∈ s.dmem, x.2.toNat < s.cfg.radix
  /-- R32: each DR holds one W-bit digit. -/
  drDigits : ∀ k : Fin 8, s.dr[k].toNat < s.cfg.radix
  /-- R39: ERRCODE is 0 when ERR = 0; R303: an abort records one of the codes 0x01 to 0x08. -/
  codeOfErr : s.err = true ↔ s.errCode ≠ ErrCode.none
  /-- R45, R305: ERRCMD is 0 unless an error is latched. -/
  errCmdOfErr : s.err = false → s.errCmd = 0
  /-- R317: an error that is latched is on record. -/
  recordOfErr : s.err = true → s.everAborted = true
  /-- R150, R156: an overflow that OVF shows, STICKY shows too. -/
  stickyOfOvf : s.ovf = true → s.sticky = true
  /-- The draw that the last reset took is spent. -/
  epochSpent : s.epoch < s.draws

end Sys2Proof.Machine
end

