-- ==== Sys2Proof/Machine/Frame.lean ====
section
/-! DEFINITION. The terms the statements are written in: what a command's operands meet, what it may write (R32, R33, R51,
R112), and what a command that completes or aborts leaves. -/

namespace Sys2Proof

/-! ### The operand-role table (R32, R51, R112) -/

/-- The spans a command writes (R51, R112). -/
def Instr.destSpans : Instr → List SpanReg
  | .nop => []
  | .clrf => []
  | .incd _ sd _ => [sd]
  | .decd _ sd _ => [sd]
  | .incs _ sd _ => [sd]
  | .decs _ sd _ => [sd]
  | .neg _ sd => [sd]
  | .macd sd _ _ _ _ => [sd]
  | .mulp _ _ _ _ => []
  | .mulpa _ _ _ _ _ => []
  | .muld sd _ _ _ => [sd]
  | .mul sd _ _ _ => [sd]
  | .sqr sd _ _ => [sd]
  | .divp _ _ _ _ _ => []
  | .divd sd _ _ => [sd]
  | .remd _ _ _ => []
  | .ldiv sq sr _ _ => [sq, sr]

/-- The spans a command only reads (R112). -/
def Instr.sourceSpans : Instr → List SpanReg
  | .nop => []
  | .clrf => []
  | .incd _ _ _ => []
  | .decd _ _ _ => []
  | .incs _ _ sa => [sa]
  | .decs _ _ sa => [sa]
  | .neg _ _ => []
  | .macd _ sa _ _ _ => [sa]
  | .mulp _ _ _ _ => []
  | .mulpa _ _ _ _ _ => []
  | .muld _ _ _ _ => []
  | .mul _ sa sb _ => [sa, sb]
  | .sqr _ sa _ => [sa]
  | .divp _ _ _ _ _ => []
  | .divd _ _ _ => []
  | .remd sa _ _ => [sa]
  | .ldiv _ _ sa sb => [sa, sb]

/-- The digit registers a command writes (R32). -/
def Instr.destDrs : Instr → List DigitReg
  | .nop => []
  | .clrf => []
  | .incd _ _ _ => []
  | .decd _ _ _ => []
  | .incs _ _ _ => []
  | .decs _ _ _ => []
  | .neg _ _ => []
  | .macd _ _ _ _ carry => [carry]
  | .mulp lo hi _ _ => [lo, hi]
  | .mulpa lo hi _ _ _ => [lo, hi]
  | .muld _ _ _ carry => [carry]
  | .mul _ _ _ _ => []
  | .sqr _ _ _ => []
  | .divp q r _ _ _ => [q, r]
  | .divd _ _ r => [r]
  | .remd _ _ r => [r]
  | .ldiv _ _ _ _ => []

end Sys2Proof

namespace Sys2Proof.Machine

/-! ### Operands -/

/-- R84: SP[k] fits DMEM. -/
abbrev State.Fits (s : State) (k : SpanReg) : Prop := (s.span k).start + (s.span k).size ≤ s.cfg.depth

/-- SP[k].COUNT as a number. -/
abbrev State.count (s : State) (k : SpanReg) : Nat := (s.span k).size

/-- SP[k].EXT. -/
abbrev State.extBit (s : State) (k : SpanReg) : Bool := (s.span k).ext

/-- `valu(SP[k])` (R37). -/
abbrev State.valuOf (s : State) (k : SpanReg) : Nat := s.valu (s.span k)

/-- `val(SP[k])` (R37). -/
abbrev State.valOf (s : State) (k : SpanReg) : Int := s.val (s.span k)

/-- R87: the two regions intersect. -/
def Span.Meets (p q : Span) : Prop := ∃ a, p.covers a = true ∧ q.covers a = true

/-- R87: SP[j] and SP[k] overlap. -/
abbrev State.Overlaps (s : State) (j k : SpanReg) : Prop := (s.span j).Meets (s.span k)

/-- R171 item 4: SP[j] and SP[k] are disjoint or have the same BASE. -/
abbrev State.MayShare (s : State) (j k : SpanReg) : Prop := ¬ s.Overlaps j k ∨ (s.span j).base = (s.span k).base

/-! ### What a command leaves -/

/-- Every DMEM digit outside the regions of these spans reads as before. -/
def DigitsSameOutside (s t : State) (ps : List Span) : Prop :=
  ∀ a, (∀ p ∈ ps, p.covers a = false) → t.readDigit a = s.readDigit a

/-- Every DR but these holds what it held. -/
def DrsSameBut (s t : State) (ks : List DigitReg) : Prop := ∀ k : DigitReg, k ∉ ks → t.dr[k] = s.dr[k]

/-- Every descriptor but these is unchanged. -/
def SpansSameBut (s t : State) (ks : List SpanReg) : Prop := ∀ k : SpanReg, k ∉ ks → t.span k = s.span k

/-- What no command changes whatever it does: the parameters, CTRL, and the model's own record of the last reset, of the
outside world's pending acts and of the words read. -/
def SameSetup (s t : State) : Prop :=
  t.cfg = s.cfg ∧ t.ieDone = s.ieDone ∧ t.ieErr = s.ieErr ∧ t.epoch = s.epoch ∧ t.events = s.events ∧
    t.readLog = s.readLog

/-- The error latch and its record are unchanged. -/
def SameError (s t : State) : Prop :=
  t.err = s.err ∧ t.errCode = s.errCode ∧ t.errCmd = s.errCmd ∧ t.everAborted = s.everAborted

/-- R150: what `complete(ovf)` leaves in STATUS, and the frame of every completing command. -/
def Completed (s t : State) (ovf : Bool) : Prop :=
  t.inFlight = none ∧ t.done = true ∧ t.ovf = ovf ∧ t.sticky = (s.sticky || ovf) ∧ SameError s t ∧ SameSetup s t

/-- The region of SP[k] holds the value v, EXT is e, and BASE and COUNT are as they were. -/
def Holds (s t : State) (k : SpanReg) (v : Nat) (e : Bool) : Prop :=
  t.valu (s.span k) = v ∧ t.span k = { s.span k with ext := e }

/-- R303: the command i aborts with the code: the next state is s but for ERR, ERRCODE, ERRCMD, BUSY, DONE and the record
of R317. -/
def AbortsWith (i : Instr) (s : State) (code : ErrCode) : Prop :=
  exec i s = .next
    { s with
      err := true, errCode := code, errCmd := encode i, everAborted := true, inFlight := none, done := true }

/-- R170 with R150: t is s after `complete(WB(SP[sd], R, S))`, and nothing else has changed. -/
def WroteBack (s t : State) (sd : SpanReg) (range : Range) (r : Int) : Prop :=
  let n := s.count sd
  let m : Int := (s.cfg.radix : Int) ^ n
  (t.valu (s.span sd) : Int) = r % m ∧
  t.span sd = { s.span sd with
    ext := match range with
      | .unsigned => false
      | .signed => (t.valu (s.span sd)).testBit (n * s.cfg.bits - 1) } ∧
  Completed s t
    (match range with
      | .unsigned => decide (¬ (0 ≤ r ∧ r < m))
      | .signed => decide (¬ (-(m / 2) ≤ r ∧ r < m / 2))) ∧
  DigitsSameOutside s t [s.span sd] ∧ SpansSameBut s t [sd] ∧ DrsSameBut s t []

/-- R157: the commands run one after another from s, each leaving the state beside it, and all complete: none latches an
error. -/
def CompleteInTurn : State → List (Instr × State) → Prop
  | _, [] => True
  | s, (i, t) :: rest => exec i s = .next t ∧ t.err = false ∧ CompleteInTurn t rest

/-- The event that comes next does not reach the block before the command in flight has ended: it comes later or waits. -/
def State.EngineNext (s : State) : Prop := ∀ ev ∈ s.events.head?, ev.early = false ∨ stalls s.cfg ev.op = true

end Sys2Proof.Machine
end

