-- ==== Sys2Proof/Safety.lean ====
section
/-! DEFINITION. What a safe run is (R317): one in which no command aborted. -/

namespace Sys2Proof.Machine

/-- R317: no command has aborted, ERRCLR or not. -/
abbrev State.safe (s : State) : Prop := s.everAborted = false

/-- A state that some number of steps leads to. -/
inductive Reaches (s : State) : State → Prop where
  | refl : Reaches s s
  | step {t u : State} (h : Reaches s t) (hs : Sys2Proof.Machine.step t = .next u) : Reaches s u

end Sys2Proof.Machine
end

