-- ==== Sys2Proof/Certificates/Slice0/Obligations.lean ====
section
/-! DEFINITION. The statements for the provers, one `Obligations.<Name>` each; OBLIGATIONS.json has their numbers, the rules
they formalise and the sentences they rest on. -/

open Sys2Proof Sys2Proof.Machine

/-! ### Encoding -/

/-- R110, R112, R118, R122: decoding the word of a well-formed command gives the command back, every operand in its place. -/
def Obligations.DecodeOfEncode : Prop :=
  ∀ i : Instr, i.wellFormed = true → decode (encode i) = .ok i

/-- R113, R115, R122: each command has one word only: a word that decodes is the word of the well-formed command it decodes
to. -/
def Obligations.EncodeOfDecode : Prop :=
  ∀ (w : Word) (i : Instr), decode w = .ok i → i.wellFormed = true ∧ encode i = w

/-- R113 to R116, R119: which words are rejected, and with which error. -/
def Obligations.DecodeRejectsByName : Prop :=
  ∀ w : Word,
    let legalOpcodes := [0x00, 0x01, 0x08, 0x09, 0x0A, 0x0B, 0x0C, 0x0D, 0x10, 0x11, 0x12, 0x13, 0x14, 0x18, 0x19, 0x1A, 0x1B]
    (Word.opc w ∉ legalOpcodes ↔ decode w = .error .illegalOpcode) ∧
    (Word.opc w ∈ legalOpcodes → Word.rsv w ≠ 0 → decode w = .error .reservedField) ∧
    (Word.opc w ∈ legalOpcodes → Word.sBit w = 1 → Word.opc w ∉ [0x08, 0x09, 0x0A, 0x0B, 0x0C] →
      decode w = .error .reservedField) ∧
    (Word.opc w ∈ [0x13, 0x14] → 2 < (Word.fE w).val → decode w = .error .reservedField) ∧
    (Word.opc w ∈ legalOpcodes → (∀ i : Instr, i.wellFormed = true → encode i ≠ w) → decode w = .error .reservedField)

/-- R126, which the spec infers from R110 and R118: its own example words, each with its assembler text (R123), with the
command it stands for and with the encoder's word for that command. -/
def Obligations.DecodeOfExampleWords : Prop :=
  ∀ x ∈ ([("NOP", 0x00000000, .nop), ("CLRF", 0x04000000, .clrf), ("INCD.U sp0, dr1", 0x20000400, .incd .unsigned 0 1),
      ("INCD.S sp0, dr1", 0x22000400, .incd .signed 0 1), ("INCS.U sp0, sp1", 0x28080000, .incs .unsigned 0 1),
      ("DECS.S sp2, sp3", 0x2E980000, .decs .signed 2 3), ("NEG.S sp4", 0x33000000, .neg .signed 4),
      ("MACD sp0, sp1, dr2, dr3, dr4", 0x340809C0, .macd 0 1 2 3 4), ("MULP dr0, dr1, dr2, dr3", 0x40080980, .mulp 0 1 2 3),
      ("MULPA dr0, dr1, dr2, dr3, dr4", 0x440809C0, .mulpa 0 1 2 3 4), ("MULD sp0, dr1, dr2, dr3", 0x48000530, .muld 0 1 2 3),
      ("MUL sp2, sp0, sp1", 0x4C810000, .mul 2 0 1 0), ("MUL.K sp2, sp0, sp1", 0x4C810800, .mul 2 0 1 2),
      ("SQR sp1, sp0", 0x50400000, .sqr 1 0 0), ("DIVP dr0, dr1, dr2, dr3, dr4", 0x600809C0, .divp 0 1 2 3 4),
      ("DIVD sp0, dr1, dr2", 0x64000500, .divd 0 1 2), ("REMD sp0, dr1, dr2", 0x68000500, .remd 0 1 2),
      ("LDIV sp2, sp3, sp0, sp1", 0x6C982000, .ldiv 2 3 0 1)] : List (String × Word × Instr)),
    decode x.2.1 = .ok x.2.2 ∧ encode x.2.2 = x.2.1 ∧ assembly x.2.2 = x.1

/-! ### Control -/

/-- R155: NOP ends, sets DONE, and changes nothing else; its one word is 0, and it is discarded while ERR = 1. -/
def Obligations.NopOnlyEnds : Prop :=
  ∀ s : State,
    (∀ w : Word, Word.opc w = 0x00 →
      decode w = if w = 0x00000000 then .ok .nop else .error .reservedField) ∧
    exec .nop s = .next { s with inFlight := none, done := true } ∧
    (s.inFlight = some 0x00000000 → s.err = true → s.EngineNext →
      step s = .next { s with inFlight := none, done := true })

/-- R156: CLRF clears OVF and STICKY, ends, sets DONE, and changes nothing else, ERR neither; its one word is 0x04000000,
and it is discarded while ERR = 1. -/
def Obligations.ClrfClearsOverflowFlags : Prop :=
  ∀ s : State,
    (∀ w : Word, Word.opc w = 0x01 →
      decode w = if w = 0x04000000 then .ok .clrf else .error .reservedField) ∧
    exec .clrf s = .next { s with ovf := false, sticky := false, inFlight := none, done := true } ∧
    (s.inFlight = some 0x04000000 → s.err = true → s.EngineNext →
      step s = .next { s with inFlight := none, done := true })

/-! ### Adder -/

/-- R172: INCD. -/
def Obligations.IncdAddsDigitToSpan : Prop :=
  ∀ (range : Range) (sd : SpanReg) (d : DigitReg) (s : State),
    encode (.incd range sd d) = commandWord 0x08 range.bit sd 0 0 0 d 0 0 ∧
    (¬ s.Fits sd → AbortsWith (.incd range sd d) s .spanRange) ∧
    (s.Fits sd → s.count sd = 0 → AbortsWith (.incd range sd d) s .count) ∧
    (s.Fits sd → 1 ≤ s.count sd →
      ∃ t, exec (.incd range sd d) s = .next t ∧ WroteBack s t sd range (s.valOf sd + s.readDr d))

/-- R173: DECD. -/
def Obligations.DecdSubtractsDigitFromSpan : Prop :=
  ∀ (range : Range) (sd : SpanReg) (d : DigitReg) (s : State),
    encode (.decd range sd d) = commandWord 0x09 range.bit sd 0 0 0 d 0 0 ∧
    (¬ s.Fits sd → AbortsWith (.decd range sd d) s .spanRange) ∧
    (s.Fits sd → s.count sd = 0 → AbortsWith (.decd range sd d) s .count) ∧
    (s.Fits sd → 1 ≤ s.count sd →
      ∃ t, exec (.decd range sd d) s = .next t ∧ WroteBack s t sd range (s.valOf sd - s.readDr d))

/-- R174: INCS. -/
def Obligations.IncsAddsSpanToSpan : Prop :=
  ∀ (range : Range) (sd sa : SpanReg) (s : State),
    encode (.incs range sd sa) = commandWord 0x0A range.bit sd sa 0 0 0 0 0 ∧
    (¬ (s.Fits sd ∧ s.Fits sa) → AbortsWith (.incs range sd sa) s .spanRange) ∧
    (s.Fits sd → s.Fits sa → s.count sd = 0 → AbortsWith (.incs range sd sa) s .count) ∧
    (s.Fits sd → s.Fits sa → 1 ≤ s.count sd → ¬ s.MayShare sa sd → AbortsWith (.incs range sd sa) s .overlap) ∧
    (s.Fits sd → s.Fits sa → 1 ≤ s.count sd → s.MayShare sa sd →
      ∃ t, exec (.incs range sd sa) s = .next t ∧ WroteBack s t sd range (s.valOf sd + s.valOf sa))

/-- R175: DECS. -/
def Obligations.DecsSubtractsSpanFromSpan : Prop :=
  ∀ (range : Range) (sd sa : SpanReg) (s : State),
    encode (.decs range sd sa) = commandWord 0x0B range.bit sd sa 0 0 0 0 0 ∧
    (¬ (s.Fits sd ∧ s.Fits sa) → AbortsWith (.decs range sd sa) s .spanRange) ∧
    (s.Fits sd → s.Fits sa → s.count sd = 0 → AbortsWith (.decs range sd sa) s .count) ∧
    (s.Fits sd → s.Fits sa → 1 ≤ s.count sd → ¬ s.MayShare sa sd → AbortsWith (.decs range sd sa) s .overlap) ∧
    (s.Fits sd → s.Fits sa → 1 ≤ s.count sd → s.MayShare sa sd →
      ∃ t, exec (.decs range sd sa) s = .next t ∧ WroteBack s t sd range (s.valOf sd - s.valOf sa))

/-- R176: NEG. -/
def Obligations.NegNegatesSpan : Prop :=
  ∀ (range : Range) (sd : SpanReg) (s : State),
    encode (.neg range sd) = commandWord 0x0C range.bit sd 0 0 0 0 0 0 ∧
    (¬ s.Fits sd → AbortsWith (.neg range sd) s .spanRange) ∧
    (s.Fits sd → s.count sd = 0 → AbortsWith (.neg range sd) s .count) ∧
    (s.Fits sd → 1 ≤ s.count sd →
      ∃ t, exec (.neg range sd) s = .next t ∧ WroteBack s t sd range (-s.valOf sd))

/-- R177: MACD. The digits of sd and the carry digit together are the exact result. -/
def Obligations.MacdMultipliesAndAccumulates : Prop :=
  ∀ (sd sa : SpanReg) (m a carry : DigitReg) (s : State),
    let i := Instr.macd sd sa m a carry
    let n := s.count sd
    let r := s.valuOf sd + s.valuOf sa * s.readDr m + s.readDr a
    let c := r / s.cfg.radix ^ n
    encode i = commandWord 0x0D 0 sd sa 0 0 m a carry ∧
    (¬ (s.Fits sd ∧ s.Fits sa) → AbortsWith i s .spanRange) ∧
    (s.Fits sd → s.Fits sa → ¬ (1 ≤ n ∧ s.count sa ≤ n) → AbortsWith i s .count) ∧
    (s.Fits sd → s.Fits sa → 1 ≤ n → s.count sa ≤ n → ¬ (s.extBit sd = false ∧ s.extBit sa = false) →
      AbortsWith i s .ext) ∧
    (s.Fits sd → s.Fits sa → 1 ≤ n → s.count sa ≤ n → s.extBit sd = false → s.extBit sa = false →
      ¬ s.MayShare sa sd → AbortsWith i s .overlap) ∧
    (s.Fits sd → s.Fits sa → 1 ≤ n → s.count sa ≤ n → s.extBit sd = false → s.extBit sa = false → s.MayShare sa sd →
      c < s.cfg.radix ∧
      ∃ t, exec i s = .next t ∧ Holds s t sd (r % s.cfg.radix ^ n) false ∧ t.readDr carry = c ∧
        Completed s t (decide (c ≠ 0)) ∧ DigitsSameOutside s t [s.span sd] ∧ SpansSameBut s t [sd] ∧
        DrsSameBut s t [carry])

/-! ### Multiply -/

/-- R210: MULP; the two digit registers hold the exact product. -/
def Obligations.MulpGivesExactPair : Prop :=
  ∀ (lo hi x y : DigitReg) (s : State),
    let i := Instr.mulp lo hi x y
    let p := s.readDr x * s.readDr y
    encode i = commandWord 0x10 0 lo hi 0 0 x y 0 ∧
    (lo = hi → AbortsWith i s .overlap) ∧
    (lo ≠ hi → ∃ t, exec i s = .next t ∧ t.readDr lo = p % s.cfg.radix ∧ t.readDr hi = p / s.cfg.radix ∧
      Completed s t false ∧ t.dmem = s.dmem ∧ t.sp = s.sp ∧ DrsSameBut s t [lo, hi])

/-- R211: MULPA; the two digit registers hold the exact result. -/
def Obligations.MulpaGivesExactPair : Prop :=
  ∀ (lo hi x y z : DigitReg) (s : State),
    let i := Instr.mulpa lo hi x y z
    let p := s.readDr x * s.readDr y + s.readDr z
    encode i = commandWord 0x11 0 lo hi 0 0 x y z ∧
    (lo = hi → AbortsWith i s .overlap) ∧
    (lo ≠ hi → ∃ t, exec i s = .next t ∧ t.readDr lo = p % s.cfg.radix ∧ t.readDr hi = p / s.cfg.radix ∧
      Completed s t false ∧ t.dmem = s.dmem ∧ t.sp = s.sp ∧ DrsSameBut s t [lo, hi])

/-- R212: MULD. The digits of sd and the carry digit together are the exact result. -/
def Obligations.MuldMultipliesSpanByDigit : Prop :=
  ∀ (sd : SpanReg) (m a carry : DigitReg) (s : State),
    let i := Instr.muld sd m a carry
    let n := s.count sd
    let r := s.valuOf sd * s.readDr m + s.readDr a
    let c := r / s.cfg.radix ^ n
    encode i = commandWord 0x12 0 sd 0 0 0 m a carry ∧
    (¬ s.Fits sd → AbortsWith i s .spanRange) ∧
    (s.Fits sd → n = 0 → AbortsWith i s .count) ∧
    (s.Fits sd → 1 ≤ n → s.extBit sd = true → AbortsWith i s .ext) ∧
    (s.Fits sd → 1 ≤ n → s.extBit sd = false →
      c < s.cfg.radix ∧
      ∃ t, exec i s = .next t ∧ Holds s t sd (r % s.cfg.radix ^ n) false ∧ t.readDr carry = c ∧
        Completed s t (decide (c ≠ 0)) ∧ DigitsSameOutside s t [s.span sd] ∧ SpansSameBut s t [sd] ∧
        DrsSameBut s t [carry])

/-- R213, R215: MUL writes the exact product of the two magnitudes, whatever sd held and whatever ALG says. -/
def Obligations.MulWritesFullProduct : Prop :=
  ∀ (sd sa sb : SpanReg) (alg : AlgField) (s : State),
    let i := Instr.mul sd sa sb alg
    let fit := s.Fits sd ∧ s.Fits sa ∧ s.Fits sb
    let counts := 1 ≤ s.count sa ∧ 1 ≤ s.count sb ∧ s.count sd = s.count sa + s.count sb
    let exts := s.extBit sa = false ∧ s.extBit sb = false
    let apart := ¬ s.Overlaps sd sa ∧ ¬ s.Overlaps sd sb
    encode i = commandWord 0x13 0 sd sa sb 0 alg 0 0 ∧
    (¬ fit → AbortsWith i s .spanRange) ∧
    (fit → ¬ counts → AbortsWith i s .count) ∧
    (fit → counts → ¬ exts → AbortsWith i s .ext) ∧
    (fit → counts → exts → ¬ apart → AbortsWith i s .overlap) ∧
    (fit → counts → exts → apart →
      ∃ t, exec i s = .next t ∧ Holds s t sd (s.valuOf sa * s.valuOf sb) false ∧ Completed s t false ∧
        DigitsSameOutside s t [s.span sd] ∧ SpansSameBut s t [sd] ∧ DrsSameBut s t [])

/-- R214: SQR writes the exact square of the magnitude, whatever sd held and whatever ALG says. -/
def Obligations.SqrWritesFullSquare : Prop :=
  ∀ (sd sa : SpanReg) (alg : AlgField) (s : State),
    let i := Instr.sqr sd sa alg
    let fit := s.Fits sd ∧ s.Fits sa
    let counts := 1 ≤ s.count sa ∧ s.count sd = 2 * s.count sa
    encode i = commandWord 0x14 0 sd sa 0 0 alg 0 0 ∧
    (¬ fit → AbortsWith i s .spanRange) ∧
    (fit → ¬ counts → AbortsWith i s .count) ∧
    (fit → counts → s.extBit sa = true → AbortsWith i s .ext) ∧
    (fit → counts → s.extBit sa = false → s.Overlaps sd sa → AbortsWith i s .overlap) ∧
    (fit → counts → s.extBit sa = false → ¬ s.Overlaps sd sa →
      ∃ t, exec i s = .next t ∧ Holds s t sd (s.valuOf sa ^ 2) false ∧ Completed s t false ∧
        DigitsSameOutside s t [s.span sd] ∧ SpansSameBut s t [sd] ∧ DrsSameBut s t [])

/-! ### Divide -/

/-- R250, R254: DIVP. -/
def Obligations.DivpDividesPairByDigit : Prop :=
  ∀ (q r h l v : DigitReg) (s : State),
    let i := Instr.divp q r h l v
    let n := s.readDr h * s.cfg.radix + s.readDr l
    let d := s.readDr v
    encode i = commandWord 0x18 0 q r 0 0 h l v ∧
    (q = r → AbortsWith i s .overlap) ∧
    (q ≠ r → d = 0 → ∃ t, exec i s = .next t ∧ t.readDr q = 0 ∧ t.readDr r = s.readDr l ∧
      Completed s t true ∧ t.dmem = s.dmem ∧ t.sp = s.sp ∧ DrsSameBut s t [q, r]) ∧
    (q ≠ r → d ≠ 0 → ∃ t, exec i s = .next t ∧ t.readDr q = n / d % s.cfg.radix ∧ t.readDr r = n % d ∧
      Completed s t (decide (s.cfg.radix ≤ n / d)) ∧ t.dmem = s.dmem ∧ t.sp = s.sp ∧ DrsSameBut s t [q, r]) ∧
    (d ≠ 0 → (s.cfg.radix ≤ n / d ↔ d ≤ s.readDr h))

/-- R251, R254: DIVD. -/
def Obligations.DivdDividesSpanByDigit : Prop :=
  ∀ (sd : SpanReg) (v r : DigitReg) (s : State),
    let i := Instr.divd sd v r
    let u := s.valuOf sd
    let d := s.readDr v
    encode i = commandWord 0x19 0 sd 0 0 0 v r 0 ∧
    (¬ s.Fits sd → AbortsWith i s .spanRange) ∧
    (s.Fits sd → s.count sd = 0 → AbortsWith i s .count) ∧
    (s.Fits sd → 1 ≤ s.count sd → s.extBit sd = true → AbortsWith i s .ext) ∧
    (s.Fits sd → 1 ≤ s.count sd → s.extBit sd = false →
      ∃ t, exec i s = .next t ∧
        (d = 0 → Holds s t sd 0 false ∧ t.readDr r = u % s.cfg.radix ∧ Completed s t true) ∧
        (d ≠ 0 → Holds s t sd (u / d) false ∧ t.readDr r = u % d ∧ Completed s t false) ∧
        DigitsSameOutside s t [s.span sd] ∧ SpansSameBut s t [sd] ∧ DrsSameBut s t [r])

/-- R252, R254: REMD; DMEM and every descriptor are unchanged. -/
def Obligations.RemdGivesRemainderOnly : Prop :=
  ∀ (sa : SpanReg) (v r : DigitReg) (s : State),
    let i := Instr.remd sa v r
    let u := s.valuOf sa
    let d := s.readDr v
    encode i = commandWord 0x1A 0 sa 0 0 0 v r 0 ∧
    (¬ s.Fits sa → AbortsWith i s .spanRange) ∧
    (s.Fits sa → s.count sa = 0 → AbortsWith i s .count) ∧
    (s.Fits sa → 1 ≤ s.count sa → s.extBit sa = true → AbortsWith i s .ext) ∧
    (s.Fits sa → 1 ≤ s.count sa → s.extBit sa = false →
      ∃ t, exec i s = .next t ∧
        (d = 0 → t.readDr r = u % s.cfg.radix ∧ Completed s t true) ∧
        (d ≠ 0 → t.readDr r = u % d ∧ Completed s t false) ∧
        t.dmem = s.dmem ∧ t.sp = s.sp ∧ DrsSameBut s t [r])

/-- R253, R254: LDIV. -/
def Obligations.LdivDividesSpanBySpan : Prop :=
  ∀ (sq sr sa sb : SpanReg) (s : State),
    let i := Instr.ldiv sq sr sa sb
    let n := s.count sa
    let m := s.count sb
    let u := s.valuOf sa
    let v := s.valuOf sb
    let fit := s.Fits sq ∧ s.Fits sr ∧ s.Fits sa ∧ s.Fits sb
    let counts := 1 ≤ m ∧ s.count sq = n - m + 1 ∧ s.count sr = m
    let exts := s.extBit sa = false ∧ s.extBit sb = false
    let apart := ¬ s.Overlaps sq sr ∧ ¬ s.Overlaps sq sa ∧ ¬ s.Overlaps sq sb ∧ ¬ s.Overlaps sr sa ∧ ¬ s.Overlaps sr sb
    let top := s.readDigit ((s.span sb).start + m - 1)
    encode i = commandWord 0x1B 0 sq sr sa sb 0 0 0 ∧
    (¬ fit → AbortsWith i s .spanRange) ∧
    (fit → n ≤ m → AbortsWith i s .dividendNotWider) ∧
    (fit → m < n → ¬ counts → AbortsWith i s .count) ∧
    (fit → m < n → counts → ¬ exts → AbortsWith i s .ext) ∧
    (fit → m < n → counts → exts → ¬ apart → AbortsWith i s .overlap) ∧
    (fit → m < n → counts → exts → apart → v ≠ 0 → top = 0 → AbortsWith i s .divisorNotNormal) ∧
    (fit → m < n → counts → exts → apart → (v = 0 ∨ top ≠ 0) →
      ∃ t, exec i s = .next t ∧
        (v = 0 → Holds s t sq 0 false ∧ Holds s t sr (u % s.cfg.radix ^ m) false ∧ Completed s t true) ∧
        (v ≠ 0 → Holds s t sq (u / v) false ∧ Holds s t sr (u % v) false ∧ Completed s t false) ∧
        DigitsSameOutside s t [s.span sq, s.span sr] ∧ SpansSameBut s t [sq, sr] ∧ DrsSameBut s t [])

/-! ### The overflow rule and its laws -/

/-- R154 and R170's sentence on it, which the spec infers: OVF is 0 exactly when the destination, read as a signed extension, holds the exact result; stated of the
five commands that write back through R170. -/
def Obligations.OverflowIffResultInexact : Prop :=
  ∀ (s t : State) (range : Range) (sd sa : SpanReg) (d : DigitReg), s.Fits sd → 1 ≤ s.count sd →
    (exec (.incd range sd d) s = .next t → (t.ovf = false ↔ t.valOf sd = s.valOf sd + s.readDr d)) ∧
    (exec (.decd range sd d) s = .next t → (t.ovf = false ↔ t.valOf sd = s.valOf sd - s.readDr d)) ∧
    (exec (.neg range sd) s = .next t → (t.ovf = false ↔ t.valOf sd = -s.valOf sd)) ∧
    (s.Fits sa → s.MayShare sa sd →
      (exec (.incs range sd sa) s = .next t → (t.ovf = false ↔ t.valOf sd = s.valOf sd + s.valOf sa)) ∧
      (exec (.decs range sd sa) s = .next t → (t.ovf = false ↔ t.valOf sd = s.valOf sd - s.valOf sa)))

/-- R179, which the spec infers from R170 and R178: the overflow laws of the chain. Unsigned, on operands with EXT 0 and a second operand of at most n digits: OVF is
the carry out of digit n-1 of the additions, and the borrow out of it (1 - carry in the complement chain) of the
subtractions. Signed, on operands whose EXT is their top bit and a second operand of at most n digits: OVF is the carry into
bit n*W-1 XOR the carry out of it. A digit is a 1-digit span with EXT 0, and NEG subtracts from 0. -/
def Obligations.OverflowLawsOfChain : Prop :=
  ∀ (s t : State) (sd sa : SpanReg) (d : DigitReg), s.Fits sd → 1 ≤ s.count sd →
    let m := s.cfg.radix ^ s.count sd
    let k := s.count sd * s.cfg.bits - 1
    let topBit := fun (j : SpanReg) => (s.valuOf j).testBit (s.count j * s.cfg.bits - 1)
    let carryOut := fun x y c => decide (m ≤ x + y + c)
    let carryIn := fun x y c => decide (2 ^ k ≤ x % 2 ^ k + y % 2 ^ k + c)
    let topXor := fun x y c => carryIn x y c ^^ carryOut x y c
    let digit := s.readDr d
    let pattern := (s.valOf sa % (m : Int)).toNat
    (s.extBit sd = false →
      (exec (.incd .unsigned sd d) s = .next t → t.ovf = carryOut (s.valuOf sd) digit 0) ∧
      (exec (.decd .unsigned sd d) s = .next t → t.ovf = !carryOut (s.valuOf sd) (m - 1 - digit) 1) ∧
      (s.Fits sa → s.MayShare sa sd → s.extBit sa = false → s.count sa ≤ s.count sd →
        (exec (.incs .unsigned sd sa) s = .next t → t.ovf = carryOut (s.valuOf sd) (s.valuOf sa) 0) ∧
        (exec (.decs .unsigned sd sa) s = .next t → t.ovf = !carryOut (s.valuOf sd) (m - 1 - s.valuOf sa) 1))) ∧
    (s.extBit sd = topBit sd →
      (digit.testBit (s.cfg.bits - 1) = false →
        (exec (.incd .signed sd d) s = .next t → t.ovf = topXor (s.valuOf sd) digit 0) ∧
        (exec (.decd .signed sd d) s = .next t → t.ovf = topXor (s.valuOf sd) (m - 1 - digit) 1)) ∧
      (exec (.neg .signed sd) s = .next t → t.ovf = topXor 0 (m - 1 - s.valuOf sd) 1) ∧
      (s.Fits sa → s.MayShare sa sd → 1 ≤ s.count sa → s.count sa ≤ s.count sd → s.extBit sa = topBit sa →
        (exec (.incs .signed sd sa) s = .next t → t.ovf = topXor (s.valuOf sd) pattern 0) ∧
        (exec (.decs .signed sd sa) s = .next t → t.ovf = topXor (s.valuOf sd) (m - 1 - pattern) 1)))

/-- R180, which the spec infers from R170, R174 and R175: subtracting what was added restores the destination, and repeats the overflow, when the destination started in
the range of the commands and the source span is another one that the addition leaves alone. -/
def Obligations.SubtractAfterAddRestores : Prop :=
  ∀ (s : State) (range : Range) (sd sa : SpanReg),
    s.Fits sd → s.Fits sa → 1 ≤ s.count sd → sa ≠ sd → ¬ s.Overlaps sa sd →
    (match range with
      | .unsigned => s.extBit sd = false
      | .signed => s.extBit sd = (s.valuOf sd).testBit (s.count sd * s.cfg.bits - 1)) →
    ∃ t u, exec (.incs range sd sa) s = .next t ∧ exec (.decs range sd sa) t = .next u ∧
      u.valuOf sd = s.valuOf sd ∧ u.span sd = s.span sd ∧ u.ovf = t.ovf

/-- R258 step 2, R176: NEG.U of a negative signed value gives its magnitude with EXT 0 and OVF 0, the most negative value
included. -/
def Obligations.NegUnsignedGivesMagnitude : Prop :=
  ∀ (s : State) (sd : SpanReg), s.Fits sd → 1 ≤ s.count sd → s.extBit sd = true →
    (s.valuOf sd).testBit (s.count sd * s.cfg.bits - 1) = true →
    ∃ t, exec (.neg .unsigned sd) s = .next t ∧ (t.valuOf sd : Int) = -s.valOf sd ∧ t.extBit sd = false ∧ t.ovf = false

/-- R124, R172: the pseudo-instructions CHK.U and CHK.S. -/
def Obligations.CheckPseudosRecheckRange : Prop :=
  ∀ (s t : State) (sd : SpanReg) (z : DigitReg), s.Fits sd → 1 ≤ s.count sd → s.readDr z = 0 →
    (exec (Pseudo.chk .unsigned sd z).expand s = .next t → (t.ovf = true ↔ s.valOf sd < 0)) ∧
    (exec (Pseudo.chk .signed sd z).expand s = .next t →
      (s.extBit sd = false → (t.ovf = true ↔ s.cfg.radix ^ s.count sd / 2 ≤ s.valuOf sd)) ∧
      t.extBit sd = (s.valuOf sd).testBit (s.count sd * s.cfg.bits - 1))

/-- R251, R253: a division by a nonzero divisor meets `d == quotient*v + remainder` and `remainder < v`. -/
def Obligations.QuotientTimesDivisorPlusRemainder : Prop :=
  ∀ (s t : State),
    (∀ (sd : SpanReg) (v r : DigitReg), s.Fits sd → 1 ≤ s.count sd → s.extBit sd = false → s.readDr v ≠ 0 →
      exec (.divd sd v r) s = .next t →
      t.valuOf sd * s.readDr v + t.readDr r = s.valuOf sd ∧ t.readDr r < s.readDr v) ∧
    (∀ sq sr sa sb : SpanReg, exec (.ldiv sq sr sa sb) s = .next t → t.err = false → s.valuOf sb ≠ 0 →
      t.valuOf sq * s.valuOf sb + t.valuOf sr = s.valuOf sa ∧ t.valuOf sr < s.valuOf sb)

/-- R37, which the spec infers from R36: the digits of a span's value, as a two's-complement number without end, are what `digitAt` gives. -/
def Obligations.SpanValueHasDigitAtDigits : Prop :=
  ∀ (s : State) (p : Span) (i : Nat),
    (s.val p / (s.cfg.radix : Int) ^ i) % (s.cfg.radix : Int) = (s.digitAt p i : Int)

/-! ### The internal algorithms -/

/-- R178, which the spec infers: the carry-propagate chain over `max(n, m) + 1` digits gives the R of INCS, DECS, INCD, DECD and NEG. -/
def Obligations.AdderChainGivesExactSum : Prop :=
  ∀ (s : State) (p q : Span) (d : DigitReg),
    let dig := fun j => if j = 0 then s.readDr d else 0
    adderResult s.cfg.bits false p.size q.size (s.digitAt p) (s.digitAt q) = s.val p + s.val q ∧
    adderResult s.cfg.bits true p.size q.size (s.digitAt p) (s.digitAt q) = s.val p - s.val q ∧
    adderResult s.cfg.bits false p.size 1 (s.digitAt p) dig = s.val p + s.readDr d ∧
    adderResult s.cfg.bits true p.size 1 (s.digitAt p) dig = s.val p - s.readDr d ∧
    adderResult s.cfg.bits true p.size p.size (fun _ => 0) (s.digitAt p) = -s.val p

/-- R178 and R212's chain, which the spec infers: the multiply-accumulate chain gives the digits and the carry of MACD and of MULD, and every carry on
the way fits a digit. -/
def Obligations.MultiplyChainGivesDigitsAndCarry : Prop :=
  ∀ (s : State) (p q : Span) (m a : Nat), p.ext = false → q.ext = false → q.size ≤ p.size →
    m < s.cfg.radix → a < s.cfg.radix →
    let macd := macChain s.cfg.radix m (s.digitAt p) (s.digitAt q) 0 a p.size
    let muld := macChain s.cfg.radix m (fun _ => 0) (s.digitAt p) 0 a p.size
    listValue s.cfg.radix macd.1 + macd.2 * s.cfg.radix ^ p.size = s.valu p + s.valu q * m + a ∧
    listValue s.cfg.radix muld.1 + muld.2 * s.cfg.radix ^ p.size = s.valu p * m + a ∧
    macd.1.length = p.size ∧ muld.1.length = p.size ∧
    (∀ d ∈ macd.1, d < s.cfg.radix) ∧ (∀ d ∈ muld.1, d < s.cfg.radix) ∧
    (∀ n ≤ p.size, (macChain s.cfg.radix m (s.digitAt p) (s.digitAt q) 0 a n).2 < s.cfg.radix)

/-- R216 to R218: for every ALG and every threshold the multiplier gives the exact product. -/
def Obligations.MultiplierEngineGivesProduct : Prop :=
  ∀ b t alg l n r m : Nat, 2 ≤ b → l < b ^ n → r < b ^ m → mulEngine b t alg l n r m = l * r

/-- R219: for every ALG and every threshold the squarer gives the exact square. -/
def Obligations.SquarerEngineGivesSquare : Prop :=
  ∀ b t alg l n : Nat, 2 ≤ b → l < b ^ n → sqrEngine b t alg l n = l ^ 2

/-- R255, which the spec infers: the digit divider's chain gives the quotient's digits and the remainder; every step's quotient fits a digit. -/
def Obligations.DigitDividerGivesQuotient : Prop :=
  ∀ (b v : Nat) (ds : List Nat), 2 ≤ b → 0 < v → v < b → (∀ d ∈ ds, d < b) →
    let out := digitDivide b v 0 ds.reverse
    listValue b out.1.reverse = listValue b ds / v ∧ out.2 = listValue b ds % v ∧
      out.1.length = ds.length ∧ ∀ q ∈ out.1, q < b

/-- R256 and R257, which the spec infers: normalized long division gives the quotient's n - m + 1 digits and the remainder, and adds the divisor back
at most twice for each digit. -/
def Obligations.LongDivisionGivesQuotient : Prop :=
  ∀ bits u n v m : Nat, 1 ≤ bits → 1 ≤ m → m < n → u < (2 ^ bits) ^ n → v < (2 ^ bits) ^ m → (2 ^ bits) ^ (m - 1) ≤ v →
    let out := longDivide bits u n v m
    listValue (2 ^ bits) out.1 = u / v ∧ out.2.1 = u % v ∧ out.1.length = n - m + 1 ∧
      (∀ q ∈ out.1, q < 2 ^ bits) ∧ ∀ k ∈ out.2.2, k ≤ 2

/-! ### Whole-machine rules about commands -/

/-- R300, R303, R307: every command, in every state, ends, and either aborts with a code and no other effect or completes
and leaves the error latch alone. -/
def Obligations.EveryCommandCompletesOrAborts : Prop :=
  ∀ (i : Instr) (s : State),
    (∃ code, code ≠ ErrCode.none ∧ AbortsWith i s code) ∨
    (∃ t, exec i s = .next t ∧ t.inFlight = none ∧ t.done = true ∧ SameError s t)

/-- R32, R33, R86, and R51, which the spec infers from them: what a command may write: DMEM only inside the regions of its destination spans, the EXT of those
spans, its output DRs; never a BASE or a COUNT, never CTRL. -/
def Obligations.CommandsWriteOnlyTheirDestinations : Prop :=
  ∀ (i : Instr) (s t : State), exec i s = .next t →
    DigitsSameOutside s t (i.destSpans.map s.span) ∧ SpansSameBut s t i.destSpans ∧ DrsSameBut s t i.destDrs ∧
    SameSetup s t ∧ ∀ k : SpanReg, (t.span k).base = (s.span k).base ∧ (t.span k).count = (s.span k).count

/-- R86: a command reads DMEM only inside the regions of its spans: if two states agree there and in everything but DMEM,
the command leaves the same registers, flags and descriptors, and the same digits in its destination spans. -/
def Obligations.CommandsReadOnlyTheirSpans : Prop :=
  ∀ (i : Instr) (s : State) (m : Memory),
    (∀ k ∈ i.destSpans ++ i.sourceSpans, ∀ a, (s.span k).covers a = true →
      ({ s with dmem := m } : State).readDigit a = s.readDigit a) →
    ∃ t t' : State, exec i s = .next t ∧ exec i { s with dmem := m } = .next t' ∧
      { t' with dmem := t.dmem } = t ∧
      ∀ k ∈ i.destSpans, ∀ a, (s.span k).covers a = true → t'.readDigit a = t.readDigit a

/-- R47: no command reads what an earlier one left in the scratch storage, and no host access sees it: one step from two
states that differ there only leaves two states that differ there at most. -/
def Obligations.ScratchIsUnobservable : Prop :=
  ∀ (s : State) (x : List Digit), ∃ (t : State) (y : List Digit),
    step s = .next t ∧ step { s with scratch := x } = .next { t with scratch := y }

/-- R157, which the spec infers from R150, R151 and R156: along any sequence of commands with no CLRF among them that all complete, STICKY becomes the OR of its old
value and the OVF that each command but NOP leaves. -/
def Obligations.StickyIsOrOfOverflows : Prop :=
  ∀ (s : State) (l : List (Instr × State)), s.err = false → CompleteInTurn s l → (∀ x ∈ l, x.1 ≠ .clrf) →
    ((l.map Prod.snd).getLastD s).sticky = (s.sticky || l.any fun x => decide (x.1 ≠ .nop) && x.2.ovf)

/-! ### The engine and the host -/

/-- The step runs the decoded command: with a command in flight, no error latched and nothing that does not stall coming
first, step is exec of the command the word decodes to (R302). -/
def Obligations.StepRunsDecodedCommand : Prop :=
  ∀ (s : State) (c : Word) (i : Instr), s.inFlight = some c → s.err = false → decode c = .ok i →
    s.EngineNext → step s = exec i s

/-- The model's own, log entry 8: the state that `withFetchWord` gives runs the word's command in its very next step. -/
def Obligations.FetchWordRunsNext : Prop :=
  ∀ (s : State) (w : Word) (i : Instr), decode w = .ok i →
    step (s.withFetchWord 32 w.toNat) = exec i (s.withFetchWord 32 w.toNat)

/-- R119, R122, R303: a word that does not decode aborts, with no effect but the latch. -/
def Obligations.StepAbortsUndecodableWord : Prop :=
  ∀ (s : State) (c : Word) (e : DecodeError), s.inFlight = some c → s.err = false → decode c = .error e →
    s.EngineNext →
    step s = .next
      { s with
        err := true, errCmd := c, everAborted := true, inFlight := none, done := true
        errCode := match e with
          | .illegalOpcode => .illegalOpcode
          | .reservedField => .reservedField }

/-- R304: while ERR = 1 a command is neither decoded nor checked; it ends and sets DONE and changes nothing else. -/
def Obligations.StepDiscardsWhileErrorLatched : Prop :=
  ∀ (s : State) (c : Word), s.inFlight = some c → s.err = true →
    s.EngineNext →
    step s = .next { s with inFlight := none, done := true }

/-- R90, R39: while a command is in flight a read of STATUS that comes early is served, and sees BUSY = 1. -/
def Obligations.StatusReadSeesBusy : Prop :=
  ∀ (s : State) (c : Word) (addr : Nat) (rest : List HostEvent), s.inFlight = some c →
    s.events = { op := .read addr, early := true } :: rest → s.cfg.umnBase ≤ addr →
    (addr - s.cfg.umnBase) / 4 = 5 →
    ∃ w : Word, step s = .next { s with events := rest, readLog := w :: s.readLog } ∧ w.getLsbD 0 = true ∧
      w.getLsbD 1 = s.done ∧ w.getLsbD 2 = s.ovf ∧ w.getLsbD 3 = s.sticky ∧ w.getLsbD 4 = s.err

/-- R44, R302, R307: a write to CMD with no command in flight is accepted: BUSY rises with the word, nothing else changes. -/
def Obligations.CmdWriteIsAccepted : Prop :=
  ∀ (s : State) (ev : HostEvent) (addr : Nat) (c : Word) (rest : List HostEvent), s.inFlight = none →
    s.events = ev :: rest → ev.op = .write addr c → s.cfg.umnBase ≤ addr → (addr - s.cfg.umnBase) / 4 = 6 →
    step s = .next { s with events := rest, inFlight := some c }

/-- R340, with log entries 2, 3 and 7: the reset input, whether or not a command runs: every register takes the value of R50, the command in flight is
abandoned without DONE, and no digit of DMEM counts as written. The DRs and the unwritten digits are free values. -/
def Obligations.ResetInputResetsEverything : Prop :=
  ∀ (s : State) (ev : HostEvent) (rest : List HostEvent), s.events = ev :: rest → ev.op = .reset →
    (s.inFlight = none ∨ ev.early = true) →
    ∃ t, step s = .next t ∧ t.inFlight = none ∧ t.done = false ∧ t.ovf = false ∧ t.sticky = false ∧ t.err = false ∧
      t.errCode = .none ∧ t.ieDone = false ∧ t.ieErr = false ∧ t.errCmd = 0 ∧
      (∀ k, t.span k = { base := 0, count := 0, ext := false }) ∧ t.irq = false ∧ t.statusWord = 0 ∧ t.ctrlWord = 0 ∧
      t.dmem = [] ∧ (∀ a, t.readDigit a = (Config.freeDigit s.draws a).toNat % s.cfg.radix) ∧
      (∀ k : DigitReg, t.readDr k = (Config.freeDr s.draws k.val).toNat % s.cfg.radix) ∧
      t.cfg = s.cfg ∧ t.events = rest ∧ t.everAborted = s.everAborted

/-- R308, R312, R316: no step stops the machine, and one with nothing to do leaves the state as it is. -/
def Obligations.StepAlwaysAnswersNext : Prop :=
  ∀ s : State, (∃ t, step s = .next t ∧ t.cfg = s.cfg) ∧ (s.inFlight = none → s.events = [] → step s = .next s)

/-- R307, R348: every accepted command ends: within as many steps as acts are pending, and one more, BUSY falls. -/
def Obligations.AcceptedCommandEnds : Prop :=
  ∀ s : State, ∃ k ≤ s.events.length + 1, ∃ t : State,
    Host.Core.run Sys2Proof.core k s = .next t ∧ t.inFlight = none

/-- R317, with log entries 7 and 12: a step that latches an error leaves a record of it, and no step erases the record. -/
def Obligations.AbortRecordIsNeverErased : Prop :=
  ∀ s t : State, Reaches s t → (s.everAborted = true → t.everAborted = true) ∧
    (t.safe → s.err = false → t.err = false)

/-- R30 to R33, R39, R45, R80, R150, R317: every step keeps the invariant. -/
def Obligations.StepKeepsInvariant : Prop :=
  ∀ s t : State, s.Inv → step s = .next t → t.Inv

/-- R50: every legal instance is in the invariant after every reset, the state that the machine starts in among them. -/
def Obligations.ResetMeetsInvariant : Prop :=
  (∀ (c : Params) (draw : Nat), c.ok = true → (State.afterReset c draw).Inv) ∧ State.reset.Inv

/-! ### The host port -/

/-- R39, R46, R301: STATUS as a host read returns it, BUSY being 1 while a command is in flight, the number of each error
code, and the IRQ level. -/
def Obligations.StatusWordAndIrqLevel : Prop :=
  (ErrCode.number .none = 0x00 ∧ ErrCode.number .illegalOpcode = 0x01 ∧ ErrCode.number .reservedField = 0x02 ∧
    ErrCode.number .spanRange = 0x03 ∧ ErrCode.number .dividendNotWider = 0x04 ∧ ErrCode.number .count = 0x05 ∧
    ErrCode.number .ext = 0x06 ∧ ErrCode.number .overlap = 0x07 ∧ ErrCode.number .divisorNotNormal = 0x08) ∧
  ∀ s : State,
    s.portRead (portReg s.cfg 0x014) = s.statusWord ∧
    (s.irq = true ↔ (s.done = true ∧ s.ieDone = true) ∨ (s.err = true ∧ s.ieErr = true)) ∧
    s.statusWord.getLsbD 0 = s.inFlight.isSome ∧ s.statusWord.getLsbD 1 = s.done ∧ s.statusWord.getLsbD 2 = s.ovf ∧
    s.statusWord.getLsbD 3 = s.sticky ∧ s.statusWord.getLsbD 4 = s.err ∧
    s.statusWord.toNat / 2 ^ 5 % 2 ^ 3 = 0 ∧ s.statusWord.toNat / 2 ^ 8 % 2 ^ 8 = s.errCode.number ∧
    s.statusWord.toNat / 2 ^ 16 = 0

/-- R39, R40, R305: a write to CTRL sets the two enables, and with bit 8 it is ERRCLR; a write to STATUS clears DONE if its
bit 1 is 1; nothing else changes; and no write to the block comes before the end of a command in flight. -/
def Obligations.CtrlAndStatusWrites : Prop :=
  ∀ (s : State) (v : Word),
    (v.getLsbD 1 = true → s.portWrite .status v = { s with done := false }) ∧
    (v.getLsbD 1 = false → s.portWrite .status v = s) ∧
    (v.getLsbD 8 = true → s.portWrite .ctrl v =
      { s with ieDone := v.getLsbD 0, ieErr := v.getLsbD 1, err := false, errCode := .none, errCmd := 0 }) ∧
    (v.getLsbD 8 = false → s.portWrite .ctrl v = { s with ieDone := v.getLsbD 0, ieErr := v.getLsbD 1 }) ∧
    ((s.portWrite .ctrl v).portRead .ctrl).toNat = v.toNat % 4 ∧
    ∀ addr, s.cfg.umnBase ≤ addr → stalls s.cfg (.write addr v) = true

/-- R48, R49, R82, R90: the register map, the two low address bits ignored, and every other offset reserved. -/
def Obligations.RegisterMapOfHostPort : Prop :=
  ∀ (c : Params) (low : Nat), low < 4 →
    portReg c (0x000 + low) = .id ∧ portReg c (0x004 + low) = .cfgDepth ∧ portReg c (0x008 + low) = .cfgKthresh ∧
    portReg c (0x00C + low) = .cfgCounts ∧ portReg c (0x010 + low) = .ctrl ∧ portReg c (0x014 + low) = .status ∧
    portReg c (0x018 + low) = .cmd ∧ portReg c (0x01C + low) = .errCmd ∧
    (∀ n : SpanReg, portReg c (0x040 + 0x10 * n.val + low) = .spBase n ∧
      portReg c (0x040 + 0x10 * n.val + 4 + low) = .spCount n ∧ portReg c (0x040 + 0x10 * n.val + 8 + low) = .spExt n ∧
      portReg c (0x040 + 0x10 * n.val + 0xC + low) = .reserved) ∧
    (∀ k : DigitReg, portReg c (0x100 + 8 * k.val + low) = .drLo k ∧ portReg c (0x100 + 8 * k.val + 4 + low) = .drHi k) ∧
    (∀ i, i < c.depth → portReg c (0x1000 + 8 * i + low) = .dmemLo i ∧ portReg c (0x1000 + 8 * i + 4 + low) = .dmemHi i) ∧
    (∀ o, (0x020 ≤ o ∧ o ≤ 0x03F) ∨ (0x0C0 ≤ o ∧ o ≤ 0x0FF) ∨ (0x140 ≤ o ∧ o ≤ 0xFFF) ∨ 0x1000 + 8 * c.depth ≤ o →
      portReg c o = .reserved)

/-- R41, R42, R44, R45, R49: the constant registers at their offsets, CMD, ERRCMD and the reserved offsets, as they read in
every legal instance; writes to all but CMD are ignored. -/
def Obligations.ConstantAndReservedRegisters : Prop :=
  ∀ (s : State) (v : Word), s.cfg.ok = true →
    let reg := portReg s.cfg
    (s.portRead (reg 0x000)).toNat / 2 ^ 16 = 0x554D ∧ (s.portRead (reg 0x000)).toNat / 2 ^ 8 % 2 ^ 8 = 0x01 ∧
    (s.portRead (reg 0x000)).toNat % 2 ^ 8 = s.cfg.bits ∧ s.cfg.bits ∈ [8, 16, 32, 64] ∧
    (s.portRead (reg 0x004)).toNat = s.cfg.depth ∧ s.portRead (reg 0x008) = 16 ∧ s.portRead (reg 0x00C) = 0x0808 ∧
    s.portRead (reg 0x018) = 0 ∧ s.portRead (reg 0x01C) = s.errCmd ∧ s.portRead .reserved = 0 ∧ s.portWrite .reserved v = s ∧
    ∀ o ∈ [0x000, 0x004, 0x008, 0x00C, 0x01C], s.portWrite (reg o) v = s

/-- R92, R95: a host read changes nothing but the host's own record of what it read; with no command in flight the step
serves the read that comes next. -/
def Obligations.HostReadHasNoSideEffect : Prop :=
  ∀ (s : State) (addr : Nat), s.cfg.umnBase ≤ addr →
    let word := s.portRead (portReg s.cfg (addr - s.cfg.umnBase))
    s.serve (.read addr) = { s with readLog := word :: s.readLog } ∧
    ∀ (ev : HostEvent) (rest : List HostEvent), s.inFlight = none → s.events = ev :: rest → ev.op = .read addr →
      step s = .next { s with events := rest, readLog := word :: s.readLog }

/-- R34, R85, R91: a digit written by its LO and its HI word, in either order, in a DR or in DMEM: the digit is the low W
bits of HI and LO, both read back, and every other digit and register keeps its value. -/
def Obligations.DigitWrittenByTwoWords : Prop :=
  ∀ (s : State) (x y : Word),
    let v := (x.toNat + 2 ^ 32 * y.toNat) % s.cfg.radix
    (∀ k : DigitReg,
      let t := (s.portWrite (.drLo k) x).portWrite (.drHi k) y
      t = (s.portWrite (.drHi k) y).portWrite (.drLo k) x ∧ t.readDr k = v ∧
      (t.portRead (.drLo k)).toNat = v % 2 ^ 32 ∧ (t.portRead (.drHi k)).toNat = v / 2 ^ 32 ∧
      DrsSameBut s t [k] ∧ t = { s with dr := t.dr }) ∧
    (∀ i : Nat,
      let t := (s.portWrite (.dmemLo i) x).portWrite (.dmemHi i) y
      t = (s.portWrite (.dmemHi i) y).portWrite (.dmemLo i) x ∧ t.readDigit i = v ∧
      (t.portRead (.dmemLo i)).toNat = v % 2 ^ 32 ∧ (t.portRead (.dmemHi i)).toNat = v / 2 ^ 32 ∧
      (∀ a, a ≠ i → t.readDigit a = s.readDigit a) ∧ t = { s with dmem := t.dmem })

/-- R33, R35: the descriptor registers hold what is written, EXT its bit 0 only, and nothing else changes. -/
def Obligations.DescriptorWrittenAndReadBack : Prop :=
  ∀ (s : State) (n : SpanReg) (v : Word),
    (∀ t, t = s.portWrite (.spBase n) v →
      t.portRead (.spBase n) = v ∧ t.span n = { s.span n with base := v } ∧ SpansSameBut s t [n] ∧ t = { s with sp := t.sp }) ∧
    (∀ t, t = s.portWrite (.spCount n) v →
      t.portRead (.spCount n) = v ∧ t.span n = { s.span n with count := v } ∧ SpansSameBut s t [n] ∧
        t = { s with sp := t.sp }) ∧
    (∀ t, t = s.portWrite (.spExt n) v →
      (t.portRead (.spExt n)).toNat = v.toNat % 2 ∧ t.span n = { s.span n with ext := v.getLsbD 0 } ∧
        SpansSameBut s t [n] ∧ t = { s with sp := t.sp })

/-- R48, R90, R92, R95: with no command in flight the step serves the host write that comes next: it does to the register at
the address what `portWrite` does, and changes nothing else. -/
def Obligations.StepServesHostWrite : Prop :=
  ∀ (s : State) (ev : HostEvent) (rest : List HostEvent) (addr : Nat) (v : Word), s.inFlight = none →
    s.events = ev :: rest → ev.op = .write addr v → s.cfg.umnBase ≤ addr →
    ∃ t, step s = .next t ∧ t = State.portWrite { s with events := rest } (portReg s.cfg (addr - s.cfg.umnBase)) v ∧
      t.events = rest ∧ t.readLog = s.readLog ∧ t.cfg = s.cfg

/-- R44, R90, R95: while a command is in flight every host access to the block but a read of STATUS waits, whether it comes
early or not: the step is the engine's, the command ends, and the access is still to come and has returned nothing. -/
def Obligations.HostAccessWaitsForCommand : Prop :=
  ∀ (s : State) (addr : Nat), s.cfg.umnBase ≤ addr →
    (∀ v : Word, stalls s.cfg (.write addr v) = true) ∧
    (stalls s.cfg (.read addr) = true ↔ (addr - s.cfg.umnBase) / 4 ≠ 5) ∧
    ∀ (c : Word) (ev : HostEvent) (rest : List HostEvent), s.inFlight = some c → s.events = ev :: rest →
      ((∃ v, ev.op = .write addr v) ∨ (ev.op = .read addr ∧ (addr - s.cfg.umnBase) / 4 ≠ 5)) →
      step s = runCommand c s ∧
      ∃ t, step s = .next t ∧ t.inFlight = none ∧ t.done = true ∧ t.events = s.events ∧ t.readLog = s.readLog
end

