-- ==== Sys2Proof/Laws/State.lean ====
section
/-! SUPPORT. What each update of the state does to each field, one lemma a field and update. -/

namespace Sys2Proof.Machine

section writeDr_fields
variable (s : State) (k : DigitReg) (v : Nat)
@[simp] theorem State.writeDr_cfg : (s.writeDr k v).cfg = s.cfg := rfl
@[simp] theorem State.writeDr_dmem : (s.writeDr k v).dmem = s.dmem := rfl
@[simp] theorem State.writeDr_dr : (s.writeDr k v).dr = s.dr.set k (toDigit s.cfg v) := rfl
@[simp] theorem State.writeDr_sp : (s.writeDr k v).sp = s.sp := rfl
@[simp] theorem State.writeDr_inFlight : (s.writeDr k v).inFlight = s.inFlight := rfl
@[simp] theorem State.writeDr_done : (s.writeDr k v).done = s.done := rfl
@[simp] theorem State.writeDr_ovf : (s.writeDr k v).ovf = s.ovf := rfl
@[simp] theorem State.writeDr_sticky : (s.writeDr k v).sticky = s.sticky := rfl
@[simp] theorem State.writeDr_err : (s.writeDr k v).err = s.err := rfl
@[simp] theorem State.writeDr_errCode : (s.writeDr k v).errCode = s.errCode := rfl
@[simp] theorem State.writeDr_ieDone : (s.writeDr k v).ieDone = s.ieDone := rfl
@[simp] theorem State.writeDr_ieErr : (s.writeDr k v).ieErr = s.ieErr := rfl
@[simp] theorem State.writeDr_errCmd : (s.writeDr k v).errCmd = s.errCmd := rfl
@[simp] theorem State.writeDr_scratch : (s.writeDr k v).scratch = s.scratch := rfl
@[simp] theorem State.writeDr_epoch : (s.writeDr k v).epoch = s.epoch := rfl
@[simp] theorem State.writeDr_draws : (s.writeDr k v).draws = s.draws := rfl
@[simp] theorem State.writeDr_everAborted : (s.writeDr k v).everAborted = s.everAborted := rfl
@[simp] theorem State.writeDr_events : (s.writeDr k v).events = s.events := rfl
@[simp] theorem State.writeDr_readLog : (s.writeDr k v).readLog = s.readLog := rfl
end writeDr_fields

section writeDigit_fields
variable (s : State) (a v : Nat)
@[simp] theorem State.writeDigit_cfg : (s.writeDigit a v).cfg = s.cfg := rfl
@[simp] theorem State.writeDigit_dmem : (s.writeDigit a v).dmem = Memory.store s.dmem a (toDigit s.cfg v) := rfl
@[simp] theorem State.writeDigit_dr : (s.writeDigit a v).dr = s.dr := rfl
@[simp] theorem State.writeDigit_sp : (s.writeDigit a v).sp = s.sp := rfl
@[simp] theorem State.writeDigit_inFlight : (s.writeDigit a v).inFlight = s.inFlight := rfl
@[simp] theorem State.writeDigit_done : (s.writeDigit a v).done = s.done := rfl
@[simp] theorem State.writeDigit_ovf : (s.writeDigit a v).ovf = s.ovf := rfl
@[simp] theorem State.writeDigit_sticky : (s.writeDigit a v).sticky = s.sticky := rfl
@[simp] theorem State.writeDigit_err : (s.writeDigit a v).err = s.err := rfl
@[simp] theorem State.writeDigit_errCode : (s.writeDigit a v).errCode = s.errCode := rfl
@[simp] theorem State.writeDigit_ieDone : (s.writeDigit a v).ieDone = s.ieDone := rfl
@[simp] theorem State.writeDigit_ieErr : (s.writeDigit a v).ieErr = s.ieErr := rfl
@[simp] theorem State.writeDigit_errCmd : (s.writeDigit a v).errCmd = s.errCmd := rfl
@[simp] theorem State.writeDigit_scratch : (s.writeDigit a v).scratch = s.scratch := rfl
@[simp] theorem State.writeDigit_epoch : (s.writeDigit a v).epoch = s.epoch := rfl
@[simp] theorem State.writeDigit_draws : (s.writeDigit a v).draws = s.draws := rfl
@[simp] theorem State.writeDigit_everAborted : (s.writeDigit a v).everAborted = s.everAborted := rfl
@[simp] theorem State.writeDigit_events : (s.writeDigit a v).events = s.events := rfl
@[simp] theorem State.writeDigit_readLog : (s.writeDigit a v).readLog = s.readLog := rfl
end writeDigit_fields

section memWrite_fields
variable (s : State) (a n v : Nat)
@[simp] theorem State.memWrite_cfg : (s.memWrite a n v).cfg = s.cfg := rfl
@[simp] theorem State.memWrite_dmem : (s.memWrite a n v).dmem = Memory.storeDigits s.cfg s.dmem a n v := rfl
@[simp] theorem State.memWrite_dr : (s.memWrite a n v).dr = s.dr := rfl
@[simp] theorem State.memWrite_sp : (s.memWrite a n v).sp = s.sp := rfl
@[simp] theorem State.memWrite_inFlight : (s.memWrite a n v).inFlight = s.inFlight := rfl
@[simp] theorem State.memWrite_done : (s.memWrite a n v).done = s.done := rfl
@[simp] theorem State.memWrite_ovf : (s.memWrite a n v).ovf = s.ovf := rfl
@[simp] theorem State.memWrite_sticky : (s.memWrite a n v).sticky = s.sticky := rfl
@[simp] theorem State.memWrite_err : (s.memWrite a n v).err = s.err := rfl
@[simp] theorem State.memWrite_errCode : (s.memWrite a n v).errCode = s.errCode := rfl
@[simp] theorem State.memWrite_ieDone : (s.memWrite a n v).ieDone = s.ieDone := rfl
@[simp] theorem State.memWrite_ieErr : (s.memWrite a n v).ieErr = s.ieErr := rfl
@[simp] theorem State.memWrite_errCmd : (s.memWrite a n v).errCmd = s.errCmd := rfl
@[simp] theorem State.memWrite_scratch : (s.memWrite a n v).scratch = s.scratch := rfl
@[simp] theorem State.memWrite_epoch : (s.memWrite a n v).epoch = s.epoch := rfl
@[simp] theorem State.memWrite_draws : (s.memWrite a n v).draws = s.draws := rfl
@[simp] theorem State.memWrite_everAborted : (s.memWrite a n v).everAborted = s.everAborted := rfl
@[simp] theorem State.memWrite_events : (s.memWrite a n v).events = s.events := rfl
@[simp] theorem State.memWrite_readLog : (s.memWrite a n v).readLog = s.readLog := rfl
end memWrite_fields

section setSpan_fields
variable (s : State) (k : SpanReg) (p : Span)
@[simp] theorem State.setSpan_cfg : (s.setSpan k p).cfg = s.cfg := rfl
@[simp] theorem State.setSpan_dmem : (s.setSpan k p).dmem = s.dmem := rfl
@[simp] theorem State.setSpan_dr : (s.setSpan k p).dr = s.dr := rfl
@[simp] theorem State.setSpan_sp : (s.setSpan k p).sp = s.sp.set k p := rfl
@[simp] theorem State.setSpan_inFlight : (s.setSpan k p).inFlight = s.inFlight := rfl
@[simp] theorem State.setSpan_done : (s.setSpan k p).done = s.done := rfl
@[simp] theorem State.setSpan_ovf : (s.setSpan k p).ovf = s.ovf := rfl
@[simp] theorem State.setSpan_sticky : (s.setSpan k p).sticky = s.sticky := rfl
@[simp] theorem State.setSpan_err : (s.setSpan k p).err = s.err := rfl
@[simp] theorem State.setSpan_errCode : (s.setSpan k p).errCode = s.errCode := rfl
@[simp] theorem State.setSpan_ieDone : (s.setSpan k p).ieDone = s.ieDone := rfl
@[simp] theorem State.setSpan_ieErr : (s.setSpan k p).ieErr = s.ieErr := rfl
@[simp] theorem State.setSpan_errCmd : (s.setSpan k p).errCmd = s.errCmd := rfl
@[simp] theorem State.setSpan_scratch : (s.setSpan k p).scratch = s.scratch := rfl
@[simp] theorem State.setSpan_epoch : (s.setSpan k p).epoch = s.epoch := rfl
@[simp] theorem State.setSpan_draws : (s.setSpan k p).draws = s.draws := rfl
@[simp] theorem State.setSpan_everAborted : (s.setSpan k p).everAborted = s.everAborted := rfl
@[simp] theorem State.setSpan_events : (s.setSpan k p).events = s.events := rfl
@[simp] theorem State.setSpan_readLog : (s.setSpan k p).readLog = s.readLog := rfl
end setSpan_fields

section setExt_fields
variable (s : State) (k : SpanReg) (e : Bool)
@[simp] theorem State.setExt_cfg : (s.setExt k e).cfg = s.cfg := rfl
@[simp] theorem State.setExt_dmem : (s.setExt k e).dmem = s.dmem := rfl
@[simp] theorem State.setExt_dr : (s.setExt k e).dr = s.dr := rfl
@[simp] theorem State.setExt_sp : (s.setExt k e).sp = s.sp.set k { s.span k with ext := e } := rfl
@[simp] theorem State.setExt_inFlight : (s.setExt k e).inFlight = s.inFlight := rfl
@[simp] theorem State.setExt_done : (s.setExt k e).done = s.done := rfl
@[simp] theorem State.setExt_ovf : (s.setExt k e).ovf = s.ovf := rfl
@[simp] theorem State.setExt_sticky : (s.setExt k e).sticky = s.sticky := rfl
@[simp] theorem State.setExt_err : (s.setExt k e).err = s.err := rfl
@[simp] theorem State.setExt_errCode : (s.setExt k e).errCode = s.errCode := rfl
@[simp] theorem State.setExt_ieDone : (s.setExt k e).ieDone = s.ieDone := rfl
@[simp] theorem State.setExt_ieErr : (s.setExt k e).ieErr = s.ieErr := rfl
@[simp] theorem State.setExt_errCmd : (s.setExt k e).errCmd = s.errCmd := rfl
@[simp] theorem State.setExt_scratch : (s.setExt k e).scratch = s.scratch := rfl
@[simp] theorem State.setExt_epoch : (s.setExt k e).epoch = s.epoch := rfl
@[simp] theorem State.setExt_draws : (s.setExt k e).draws = s.draws := rfl
@[simp] theorem State.setExt_everAborted : (s.setExt k e).everAborted = s.everAborted := rfl
@[simp] theorem State.setExt_events : (s.setExt k e).events = s.events := rfl
@[simp] theorem State.setExt_readLog : (s.setExt k e).readLog = s.readLog := rfl
end setExt_fields

section writeSpan_fields
variable (s : State) (k : SpanReg) (v : Nat) (e : Bool)
@[simp] theorem State.writeSpan_cfg : (s.writeSpan k v e).cfg = s.cfg := rfl
@[simp] theorem State.writeSpan_dmem : (s.writeSpan k v e).dmem = Memory.storeDigits s.cfg s.dmem (s.span k).start (s.span k).size v := rfl
@[simp] theorem State.writeSpan_dr : (s.writeSpan k v e).dr = s.dr := rfl
@[simp] theorem State.writeSpan_sp : (s.writeSpan k v e).sp = s.sp.set k { s.span k with ext := e } := rfl
@[simp] theorem State.writeSpan_inFlight : (s.writeSpan k v e).inFlight = s.inFlight := rfl
@[simp] theorem State.writeSpan_done : (s.writeSpan k v e).done = s.done := rfl
@[simp] theorem State.writeSpan_ovf : (s.writeSpan k v e).ovf = s.ovf := rfl
@[simp] theorem State.writeSpan_sticky : (s.writeSpan k v e).sticky = s.sticky := rfl
@[simp] theorem State.writeSpan_err : (s.writeSpan k v e).err = s.err := rfl
@[simp] theorem State.writeSpan_errCode : (s.writeSpan k v e).errCode = s.errCode := rfl
@[simp] theorem State.writeSpan_ieDone : (s.writeSpan k v e).ieDone = s.ieDone := rfl
@[simp] theorem State.writeSpan_ieErr : (s.writeSpan k v e).ieErr = s.ieErr := rfl
@[simp] theorem State.writeSpan_errCmd : (s.writeSpan k v e).errCmd = s.errCmd := rfl
@[simp] theorem State.writeSpan_scratch : (s.writeSpan k v e).scratch = s.scratch := rfl
@[simp] theorem State.writeSpan_epoch : (s.writeSpan k v e).epoch = s.epoch := rfl
@[simp] theorem State.writeSpan_draws : (s.writeSpan k v e).draws = s.draws := rfl
@[simp] theorem State.writeSpan_everAborted : (s.writeSpan k v e).everAborted = s.everAborted := rfl
@[simp] theorem State.writeSpan_events : (s.writeSpan k v e).events = s.events := rfl
@[simp] theorem State.writeSpan_readLog : (s.writeSpan k v e).readLog = s.readLog := rfl
end writeSpan_fields

section endCommand_fields
variable (s : State)
@[simp] theorem State.endCommand_cfg : s.endCommand.cfg = s.cfg := rfl
@[simp] theorem State.endCommand_dmem : s.endCommand.dmem = s.dmem := rfl
@[simp] theorem State.endCommand_dr : s.endCommand.dr = s.dr := rfl
@[simp] theorem State.endCommand_sp : s.endCommand.sp = s.sp := rfl
@[simp] theorem State.endCommand_inFlight : s.endCommand.inFlight = none := rfl
@[simp] theorem State.endCommand_done : s.endCommand.done = true := rfl
@[simp] theorem State.endCommand_ovf : s.endCommand.ovf = s.ovf := rfl
@[simp] theorem State.endCommand_sticky : s.endCommand.sticky = s.sticky := rfl
@[simp] theorem State.endCommand_err : s.endCommand.err = s.err := rfl
@[simp] theorem State.endCommand_errCode : s.endCommand.errCode = s.errCode := rfl
@[simp] theorem State.endCommand_ieDone : s.endCommand.ieDone = s.ieDone := rfl
@[simp] theorem State.endCommand_ieErr : s.endCommand.ieErr = s.ieErr := rfl
@[simp] theorem State.endCommand_errCmd : s.endCommand.errCmd = s.errCmd := rfl
@[simp] theorem State.endCommand_scratch : s.endCommand.scratch = s.scratch := rfl
@[simp] theorem State.endCommand_epoch : s.endCommand.epoch = s.epoch := rfl
@[simp] theorem State.endCommand_draws : s.endCommand.draws = s.draws := rfl
@[simp] theorem State.endCommand_everAborted : s.endCommand.everAborted = s.everAborted := rfl
@[simp] theorem State.endCommand_events : s.endCommand.events = s.events := rfl
@[simp] theorem State.endCommand_readLog : s.endCommand.readLog = s.readLog := rfl
end endCommand_fields

section abort_fields
variable (s : State) (c : Word) (code : ErrCode)
@[simp] theorem State.abort_cfg : (s.abort c code).cfg = s.cfg := rfl
@[simp] theorem State.abort_dmem : (s.abort c code).dmem = s.dmem := rfl
@[simp] theorem State.abort_dr : (s.abort c code).dr = s.dr := rfl
@[simp] theorem State.abort_sp : (s.abort c code).sp = s.sp := rfl
@[simp] theorem State.abort_inFlight : (s.abort c code).inFlight = none := rfl
@[simp] theorem State.abort_done : (s.abort c code).done = true := rfl
@[simp] theorem State.abort_ovf : (s.abort c code).ovf = s.ovf := rfl
@[simp] theorem State.abort_sticky : (s.abort c code).sticky = s.sticky := rfl
@[simp] theorem State.abort_err : (s.abort c code).err = true := rfl
@[simp] theorem State.abort_errCode : (s.abort c code).errCode = code := rfl
@[simp] theorem State.abort_ieDone : (s.abort c code).ieDone = s.ieDone := rfl
@[simp] theorem State.abort_ieErr : (s.abort c code).ieErr = s.ieErr := rfl
@[simp] theorem State.abort_errCmd : (s.abort c code).errCmd = c := rfl
@[simp] theorem State.abort_scratch : (s.abort c code).scratch = s.scratch := rfl
@[simp] theorem State.abort_epoch : (s.abort c code).epoch = s.epoch := rfl
@[simp] theorem State.abort_draws : (s.abort c code).draws = s.draws := rfl
@[simp] theorem State.abort_everAborted : (s.abort c code).everAborted = true := rfl
@[simp] theorem State.abort_events : (s.abort c code).events = s.events := rfl
@[simp] theorem State.abort_readLog : (s.abort c code).readLog = s.readLog := rfl
end abort_fields

section clearErr_fields
variable (s : State)
@[simp] theorem State.clearErr_cfg : s.clearErr.cfg = s.cfg := rfl
@[simp] theorem State.clearErr_dmem : s.clearErr.dmem = s.dmem := rfl
@[simp] theorem State.clearErr_dr : s.clearErr.dr = s.dr := rfl
@[simp] theorem State.clearErr_sp : s.clearErr.sp = s.sp := rfl
@[simp] theorem State.clearErr_inFlight : s.clearErr.inFlight = s.inFlight := rfl
@[simp] theorem State.clearErr_done : s.clearErr.done = s.done := rfl
@[simp] theorem State.clearErr_ovf : s.clearErr.ovf = s.ovf := rfl
@[simp] theorem State.clearErr_sticky : s.clearErr.sticky = s.sticky := rfl
@[simp] theorem State.clearErr_err : s.clearErr.err = false := rfl
@[simp] theorem State.clearErr_errCode : s.clearErr.errCode = .none := rfl
@[simp] theorem State.clearErr_ieDone : s.clearErr.ieDone = s.ieDone := rfl
@[simp] theorem State.clearErr_ieErr : s.clearErr.ieErr = s.ieErr := rfl
@[simp] theorem State.clearErr_errCmd : s.clearErr.errCmd = 0 := rfl
@[simp] theorem State.clearErr_scratch : s.clearErr.scratch = s.scratch := rfl
@[simp] theorem State.clearErr_epoch : s.clearErr.epoch = s.epoch := rfl
@[simp] theorem State.clearErr_draws : s.clearErr.draws = s.draws := rfl
@[simp] theorem State.clearErr_everAborted : s.clearErr.everAborted = s.everAborted := rfl
@[simp] theorem State.clearErr_events : s.clearErr.events = s.events := rfl
@[simp] theorem State.clearErr_readLog : s.clearErr.readLog = s.readLog := rfl
end clearErr_fields

section clearFlags_fields
variable (s : State)
@[simp] theorem State.clearFlags_cfg : s.clearFlags.cfg = s.cfg := rfl
@[simp] theorem State.clearFlags_dmem : s.clearFlags.dmem = s.dmem := rfl
@[simp] theorem State.clearFlags_dr : s.clearFlags.dr = s.dr := rfl
@[simp] theorem State.clearFlags_sp : s.clearFlags.sp = s.sp := rfl
@[simp] theorem State.clearFlags_inFlight : s.clearFlags.inFlight = s.inFlight := rfl
@[simp] theorem State.clearFlags_done : s.clearFlags.done = s.done := rfl
@[simp] theorem State.clearFlags_ovf : s.clearFlags.ovf = false := rfl
@[simp] theorem State.clearFlags_sticky : s.clearFlags.sticky = false := rfl
@[simp] theorem State.clearFlags_err : s.clearFlags.err = s.err := rfl
@[simp] theorem State.clearFlags_errCode : s.clearFlags.errCode = s.errCode := rfl
@[simp] theorem State.clearFlags_ieDone : s.clearFlags.ieDone = s.ieDone := rfl
@[simp] theorem State.clearFlags_ieErr : s.clearFlags.ieErr = s.ieErr := rfl
@[simp] theorem State.clearFlags_errCmd : s.clearFlags.errCmd = s.errCmd := rfl
@[simp] theorem State.clearFlags_scratch : s.clearFlags.scratch = s.scratch := rfl
@[simp] theorem State.clearFlags_epoch : s.clearFlags.epoch = s.epoch := rfl
@[simp] theorem State.clearFlags_draws : s.clearFlags.draws = s.draws := rfl
@[simp] theorem State.clearFlags_everAborted : s.clearFlags.everAborted = s.everAborted := rfl
@[simp] theorem State.clearFlags_events : s.clearFlags.events = s.events := rfl
@[simp] theorem State.clearFlags_readLog : s.clearFlags.readLog = s.readLog := rfl
end clearFlags_fields

section complete_fields
variable (s : State) (b : Bool)
@[simp] theorem State.complete_cfg : (s.complete b).cfg = s.cfg := rfl
@[simp] theorem State.complete_dmem : (s.complete b).dmem = s.dmem := rfl
@[simp] theorem State.complete_dr : (s.complete b).dr = s.dr := rfl
@[simp] theorem State.complete_sp : (s.complete b).sp = s.sp := rfl
@[simp] theorem State.complete_inFlight : (s.complete b).inFlight = none := rfl
@[simp] theorem State.complete_done : (s.complete b).done = true := rfl
@[simp] theorem State.complete_ovf : (s.complete b).ovf = b := rfl
@[simp] theorem State.complete_sticky : (s.complete b).sticky = (s.sticky || b) := rfl
@[simp] theorem State.complete_err : (s.complete b).err = s.err := rfl
@[simp] theorem State.complete_errCode : (s.complete b).errCode = s.errCode := rfl
@[simp] theorem State.complete_ieDone : (s.complete b).ieDone = s.ieDone := rfl
@[simp] theorem State.complete_ieErr : (s.complete b).ieErr = s.ieErr := rfl
@[simp] theorem State.complete_errCmd : (s.complete b).errCmd = s.errCmd := rfl
@[simp] theorem State.complete_scratch : (s.complete b).scratch = Config.freeScratch s.draws := rfl
@[simp] theorem State.complete_epoch : (s.complete b).epoch = s.epoch := rfl
@[simp] theorem State.complete_draws : (s.complete b).draws = s.draws + 1 := rfl
@[simp] theorem State.complete_everAborted : (s.complete b).everAborted = s.everAborted := rfl
@[simp] theorem State.complete_events : (s.complete b).events = s.events := rfl
@[simp] theorem State.complete_readLog : (s.complete b).readLog = s.readLog := rfl
end complete_fields

end Sys2Proof.Machine
end

