-- ==== Sys2Proof/Laws/Memory.lean ====
section
/-! SUPPORT. DMEM and the registers: a read after a write gives the value written, a write leaves every other place alone,
every operation keeps the canonical form, and the value of a run of digits. -/

namespace Sys2Proof

/-! ### The radix -/

theorem Params.bits_le (c : Params) : c.bits ≤ 64 := by
  unfold Params.bits; cases c.width <;> decide

theorem Params.bits_pos (c : Params) : 8 ≤ c.bits := by
  unfold Params.bits; cases c.width <;> decide

theorem Params.radix_pos (c : Params) : 0 < c.radix := Nat.two_pow_pos _

theorem Params.radix_le (c : Params) : c.radix ≤ 2 ^ 64 :=
  Nat.pow_le_pow_right (by decide) c.bits_le

theorem Params.radix_ge (c : Params) : 256 ≤ c.radix :=
  show 2 ^ 8 ≤ 2 ^ c.bits from Nat.pow_le_pow_right (by decide) c.bits_pos

end Sys2Proof

namespace Sys2Proof.Machine

/-! ### Digits -/

/-- A digit slot holds the number's low W bits. -/
@[simp] theorem toDigit_toNat (c : Params) (v : Nat) : (toDigit c v).toNat = v % c.radix := by
  have h : v % c.radix < 2 ^ 64 := lt_of_lt_of_le (Nat.mod_lt _ c.radix_pos) c.radix_le
  simpa [toDigit] using Nat.mod_eq_of_lt h

theorem toDigit_lt (c : Params) (v : Nat) : (toDigit c v).toNat < c.radix := by
  rw [toDigit_toNat]; exact Nat.mod_lt _ c.radix_pos

/-! ### The list -/

@[simp] theorem Memory.find_store_same (m : Memory) (a : Nat) (d : Digit) :
    Memory.find (Memory.store m a d) a = some d := by
  induction m with
  | nil => simp [Memory.store, Memory.find]
  | cons x rest ih =>
    obtain ⟨b, e⟩ := x
    simp only [Memory.store]
    split
    · simp [Memory.find]
    · split
      · simp [Memory.find]
      · simp_all [Memory.find]

theorem Memory.find_store_of_ne (m : Memory) {a a' : Nat} (d : Digit) (h : a' ≠ a) :
    Memory.find (Memory.store m a d) a' = Memory.find m a' := by
  induction m with
  | nil => simp [Memory.store, Memory.find, h]
  | cons x rest ih =>
    obtain ⟨b, e⟩ := x
    simp only [Memory.store]
    split
    · simp [Memory.find, h]
    · split
      · simp_all [Memory.find]
      · simp only [Memory.find, ih]

theorem Memory.mem_store {m : Memory} {a : Nat} {d : Digit} {x : Nat × Digit} (h : x ∈ Memory.store m a d) :
    x = (a, d) ∨ x ∈ m := by
  induction m with
  | nil => simpa [Memory.store] using h
  | cons y rest ih =>
    obtain ⟨b, e⟩ := y
    simp only [Memory.store] at h
    split at h
    · simpa using h
    · split at h
      · rcases List.mem_cons.1 h with h | h
        · exact .inl h
        · exact .inr (List.mem_cons_of_mem _ h)
      · rcases List.mem_cons.1 h with h | h
        · exact .inr (by simp [h])
        · rcases ih h with h | h
          · exact .inl h
          · exact .inr (List.mem_cons_of_mem _ h)

theorem Memory.above_iff (a : Nat) (m : Memory) : Memory.above a m = true ↔ ∀ x ∈ m, a < x.1 := by
  induction m with
  | nil => simp [Memory.above]
  | cons x rest ih => simp [Memory.above, ih]

/-- A write of one digit keeps the canonical form. -/
theorem Memory.store_wf (m : Memory) (a : Nat) (d : Digit) (h : Memory.wf m = true) :
    Memory.wf (Memory.store m a d) = true := by
  induction m with
  | nil => simp [Memory.store, Memory.wf, Memory.above]
  | cons x rest ih =>
    obtain ⟨b, e⟩ := x
    simp only [Memory.wf, Bool.and_eq_true, Memory.above_iff] at h
    simp only [Memory.store]
    split
    · rename_i hab
      simp only [Memory.wf, Bool.and_eq_true, Memory.above_iff]
      refine ⟨fun x hx => ?_, h⟩
      rcases List.mem_cons.1 hx with rfl | hx
      · exact hab
      · exact lt_trans hab (h.1 x hx)
    · split
      · rename_i hab
        subst hab
        simpa only [Memory.wf, Bool.and_eq_true, Memory.above_iff] using h
      · rename_i h1 h2
        simp only [Memory.wf, Bool.and_eq_true, Memory.above_iff]
        refine ⟨fun x hx => ?_, ih h.2⟩
        rcases Memory.mem_store hx with rfl | hx
        · show b < a
          omega
        · exact h.1 x hx

/-- A write of several digits keeps the canonical form. -/
theorem Memory.storeDigits_wf (c : Params) (m : Memory) (a n v : Nat) (h : Memory.wf m = true) :
    Memory.wf (Memory.storeDigits c m a n v) = true := by
  induction n generalizing m a v with
  | zero => exact h
  | succ n ih => exact ih _ _ _ (Memory.store_wf _ _ _ h)

/-- Every listed digit after a write is an old one, or one of the digits written. -/
theorem Memory.mem_storeDigits {c : Params} {m : Memory} {a n v : Nat} {x : Nat × Digit}
    (h : x ∈ Memory.storeDigits c m a n v) :
    x ∈ m ∨ (a ≤ x.1 ∧ x.1 < a + n ∧ x.2.toNat < c.radix) := by
  induction n generalizing m a v with
  | zero => exact .inl h
  | succ n ih =>
    rcases ih h with h | ⟨h1, h2, h3⟩
    · rcases Memory.mem_store h with rfl | h
      · exact .inr ⟨le_rfl, by simp, toDigit_lt _ _⟩
      · exact .inl h
    · exact .inr ⟨by omega, by omega, h3⟩

theorem Memory.find_storeDigits_outside (c : Params) (m : Memory) (a n v x : Nat) (h : x < a ∨ a + n ≤ x) :
    Memory.find (Memory.storeDigits c m a n v) x = Memory.find m x := by
  induction n generalizing m a v with
  | zero => rfl
  | succ n ih =>
    rw [Memory.storeDigits, ih _ _ _ (by omega), Memory.find_store_of_ne _ _ (by omega)]

theorem Memory.find_storeDigits_inside (c : Params) (m : Memory) (a n v i : Nat) (h : i < n) :
    Memory.find (Memory.storeDigits c m a n v) (a + i) = some (toDigit c (v / c.radix ^ i)) := by
  induction n generalizing m a v i with
  | zero => omega
  | succ n ih =>
    rw [Memory.storeDigits]
    cases i with
    | zero => rw [Memory.find_storeDigits_outside _ _ _ _ _ _ (by omega)]; simp
    | succ i =>
      rw [show a + (i + 1) = a + 1 + i by omega, ih _ _ _ _ (by omega), Nat.div_div_eq_div_mul, Nat.pow_succ']

/-! ### Digits of DMEM as numbers -/

theorem State.readDigit_lt (s : State) (a : Nat) : s.readDigit a < s.cfg.radix := by
  unfold State.readDigit; split <;> exact Nat.mod_lt _ s.cfg.radix_pos

/-- A digit reads the same in two states of one instance whose DMEM has the same history at that address. -/
theorem State.readDigit_congr {s t : State} {a : Nat} (hc : t.cfg = s.cfg) (he : t.epoch = s.epoch)
    (hm : Memory.find t.dmem a = Memory.find s.dmem a) : t.readDigit a = s.readDigit a := by
  unfold State.readDigit; rw [hc, he, hm]

@[simp] theorem State.readDigit_writeDigit_same (s : State) (a v : Nat) :
    (s.writeDigit a v).readDigit a = v % s.cfg.radix := by
  simp [State.readDigit]

theorem State.readDigit_writeDigit_of_ne (s : State) {a a' : Nat} (v : Nat) (h : a' ≠ a) :
    (s.writeDigit a v).readDigit a' = s.readDigit a' :=
  State.readDigit_congr rfl rfl (Memory.find_store_of_ne _ _ h)

theorem State.readDigit_memWrite_outside (s : State) (a n v x : Nat) (h : x < a ∨ a + n ≤ x) :
    (s.memWrite a n v).readDigit x = s.readDigit x :=
  State.readDigit_congr rfl rfl (Memory.find_storeDigits_outside _ _ _ _ _ _ h)

theorem State.readDigit_memWrite_inside (s : State) (a n v i : Nat) (h : i < n) :
    (s.memWrite a n v).readDigit (a + i) = v / s.cfg.radix ^ i % s.cfg.radix := by
  simp [State.readDigit, Memory.find_storeDigits_inside _ _ _ _ _ _ h]

/-! ### Runs of digits -/

theorem State.memRead_lt (s : State) (a n : Nat) : s.memRead a n < s.cfg.radix ^ n := by
  induction n generalizing a with
  | zero => simp [State.memRead]
  | succ n ih =>
    have h1 := s.readDigit_lt a
    have h2 := ih (a + 1)
    rw [State.memRead, Nat.pow_succ']
    calc s.readDigit a + s.cfg.radix * s.memRead (a + 1) n
        < s.cfg.radix * (s.memRead (a + 1) n + 1) := by rw [Nat.mul_add, Nat.mul_one]; omega
      _ ≤ s.cfg.radix * s.cfg.radix ^ n := Nat.mul_le_mul_left _ h2

/-- Runs whose digits agree have the same value. -/
theorem State.memRead_congr {s t : State} {a b n : Nat} (hc : t.cfg = s.cfg)
    (h : ∀ i < n, t.readDigit (b + i) = s.readDigit (a + i)) : t.memRead b n = s.memRead a n := by
  induction n generalizing a b with
  | zero => rfl
  | succ n ih =>
    rw [State.memRead, State.memRead, hc, show t.readDigit b = s.readDigit a from h 0 (Nat.succ_pos _)]
    congr 2
    refine ih fun i hi => ?_
    have := h (i + 1) (by omega)
    rwa [show b + 1 + i = b + (i + 1) by omega, show a + 1 + i = a + (i + 1) by omega]

/-- A run reads the same in two states with the same DMEM. -/
theorem State.memRead_of_dmem {s t : State} (hc : t.cfg = s.cfg) (hd : t.dmem = s.dmem) (he : t.epoch = s.epoch)
    (a n : Nat) : t.memRead a n = s.memRead a n :=
  State.memRead_congr hc fun _ _ => State.readDigit_congr hc he (by rw [hd])

/-- The digits of the value of a run are the digits in it. -/
theorem State.memRead_digit (s : State) (a n i : Nat) (h : i < n) :
    s.memRead a n / s.cfg.radix ^ i % s.cfg.radix = s.readDigit (a + i) := by
  induction n generalizing a i with
  | zero => omega
  | succ n ih =>
    have hlt := s.readDigit_lt a
    rw [State.memRead]
    cases i with
    | zero => simpa using Nat.mod_eq_of_lt hlt
    | succ i =>
      rw [Nat.pow_succ', ← Nat.div_div_eq_div_mul, Nat.add_mul_div_left _ _ s.cfg.radix_pos,
        Nat.div_eq_of_lt hlt, Nat.zero_add, ih _ _ (by omega), show a + 1 + i = a + (i + 1) by omega]

/-- `MemRead` after `MemWrite` of the same run: the wrapped value. -/
theorem State.memRead_memWrite_same (s : State) (a n v : Nat) :
    (s.memWrite a n v).memRead a n = v % s.cfg.radix ^ n := by
  have key : ∀ (n a v : Nat) (t : State), t.cfg = s.cfg →
      (∀ i < n, t.readDigit (a + i) = v / s.cfg.radix ^ i % s.cfg.radix) → t.memRead a n = v % s.cfg.radix ^ n := by
    intro n
    induction n with
    | zero => intro a v t _ _; simp [State.memRead, Nat.mod_one]
    | succ n ih =>
      intro a v t hc h
      have h0 := h 0 (Nat.succ_pos _)
      rw [State.memRead, hc, ih (a + 1) (v / s.cfg.radix) t hc]
      · simp only [Nat.add_zero, Nat.pow_zero, Nat.div_one] at h0
        rw [h0, Nat.pow_succ', Nat.mod_mul]
      · intro i hi
        have := h (i + 1) (by omega)
        rw [show a + 1 + i = a + (i + 1) by omega, this, Nat.div_div_eq_div_mul, Nat.pow_succ']
  exact key n a v _ rfl fun i hi => s.readDigit_memWrite_inside a n v i hi

/-- `MemRead` after `MemWrite` of a run elsewhere: unchanged. -/
theorem State.memRead_memWrite_disjoint (s : State) (a n v b k : Nat) (h : n = 0 ∨ k = 0 ∨ b + k ≤ a ∨ a + n ≤ b) :
    (s.memWrite a n v).memRead b k = s.memRead b k :=
  State.memRead_congr rfl fun i hi => s.readDigit_memWrite_outside _ _ _ _ (by omega)

/-! ### Digit registers and descriptors -/

theorem State.readDr_lt (s : State) (k : DigitReg) : s.readDr k < s.cfg.radix := Nat.mod_lt _ s.cfg.radix_pos

@[simp] theorem State.readDr_writeDr_same (s : State) (k : DigitReg) (v : Nat) :
    (s.writeDr k v).readDr k = v % s.cfg.radix := by
  simp [State.readDr]

theorem State.readDr_writeDr_of_ne (s : State) {k k' : DigitReg} (v : Nat) (h : k' ≠ k) :
    (s.writeDr k v).readDr k' = s.readDr k' := by
  have h' : k.val ≠ k'.val := fun e => h (Fin.ext e.symm)
  simp [State.readDr, h']

@[simp] theorem State.span_setSpan_same (s : State) (k : SpanReg) (p : Span) : (s.setSpan k p).span k = p := by
  simp [State.span]

theorem State.span_setSpan_of_ne (s : State) {k k' : SpanReg} (p : Span) (h : k' ≠ k) :
    (s.setSpan k p).span k' = s.span k' := by
  have h' : k.val ≠ k'.val := fun e => h (Fin.ext e.symm)
  simp [State.span, h']

/-! ### Reads after updates of other parts -/

section unrelated
variable (s : State)
@[simp] theorem State.readDr_memWrite (a n v : Nat) (k : DigitReg) : (s.memWrite a n v).readDr k = s.readDr k := rfl
@[simp] theorem State.readDr_setExt (j : SpanReg) (e : Bool) (k : DigitReg) : (s.setExt j e).readDr k = s.readDr k := rfl
@[simp] theorem State.readDr_writeSpan (j : SpanReg) (v : Nat) (e : Bool) (k : DigitReg) :
    (s.writeSpan j v e).readDr k = s.readDr k := rfl
@[simp] theorem State.readDr_complete (b : Bool) (k : DigitReg) : (s.complete b).readDr k = s.readDr k := rfl
@[simp] theorem State.readDr_endCommand (k : DigitReg) : s.endCommand.readDr k = s.readDr k := rfl
@[simp] theorem State.readDr_abort (c : Word) (code : ErrCode) (k : DigitReg) : (s.abort c code).readDr k = s.readDr k := rfl
@[simp] theorem State.span_writeDr (k : DigitReg) (v : Nat) (j : SpanReg) : (s.writeDr k v).span j = s.span j := rfl
@[simp] theorem State.span_memWrite (a n v : Nat) (j : SpanReg) : (s.memWrite a n v).span j = s.span j := rfl
@[simp] theorem State.span_complete (b : Bool) (j : SpanReg) : (s.complete b).span j = s.span j := rfl
@[simp] theorem State.span_endCommand (j : SpanReg) : s.endCommand.span j = s.span j := rfl
@[simp] theorem State.span_abort (c : Word) (code : ErrCode) (j : SpanReg) : (s.abort c code).span j = s.span j := rfl
@[simp] theorem State.readDigit_writeDr (k : DigitReg) (v a : Nat) : (s.writeDr k v).readDigit a = s.readDigit a := rfl
@[simp] theorem State.readDigit_setExt (j : SpanReg) (e : Bool) (a : Nat) : (s.setExt j e).readDigit a = s.readDigit a := rfl
@[simp] theorem State.readDigit_writeSpan_eq (j : SpanReg) (v : Nat) (e : Bool) (a : Nat) :
    (s.writeSpan j v e).readDigit a = (s.memWrite (s.span j).start (s.span j).size v).readDigit a := rfl
@[simp] theorem State.readDigit_complete (b : Bool) (a : Nat) : (s.complete b).readDigit a = s.readDigit a := rfl
@[simp] theorem State.readDigit_endCommand (a : Nat) : s.endCommand.readDigit a = s.readDigit a := rfl
@[simp] theorem State.readDigit_abort (c : Word) (code : ErrCode) (a : Nat) :
    (s.abort c code).readDigit a = s.readDigit a := rfl
@[simp] theorem State.span_setExt_same (j : SpanReg) (e : Bool) : (s.setExt j e).span j = { s.span j with ext := e } :=
  s.span_setSpan_same _ _
theorem State.span_setExt_of_ne {j j' : SpanReg} (e : Bool) (h : j' ≠ j) : (s.setExt j e).span j' = s.span j' :=
  s.span_setSpan_of_ne _ h
@[simp] theorem State.span_writeSpan_same (j : SpanReg) (v : Nat) (e : Bool) :
    (s.writeSpan j v e).span j = { s.span j with ext := e } := s.span_setSpan_same _ _
theorem State.span_writeSpan_of_ne {j j' : SpanReg} (v : Nat) (e : Bool) (h : j' ≠ j) :
    (s.writeSpan j v e).span j' = s.span j' := (s.memWrite _ _ _).span_setSpan_of_ne _ h
@[simp] theorem State.memRead_writeDr (k : DigitReg) (v a n : Nat) : (s.writeDr k v).memRead a n = s.memRead a n := by
  apply State.memRead_of_dmem <;> rfl
@[simp] theorem State.memRead_setExt (j : SpanReg) (e : Bool) (a n : Nat) : (s.setExt j e).memRead a n = s.memRead a n := by
  apply State.memRead_of_dmem <;> rfl
@[simp] theorem State.memRead_complete (b : Bool) (a n : Nat) : (s.complete b).memRead a n = s.memRead a n := by
  apply State.memRead_of_dmem <;> rfl
@[simp] theorem State.memRead_endCommand (a n : Nat) : s.endCommand.memRead a n = s.memRead a n := by
  apply State.memRead_of_dmem <;> rfl
@[simp] theorem State.memRead_abort (c : Word) (code : ErrCode) (a n : Nat) :
    (s.abort c code).memRead a n = s.memRead a n := by
  apply State.memRead_of_dmem <;> rfl
@[simp] theorem State.valu_writeDr (k : DigitReg) (v : Nat) (p : Span) : (s.writeDr k v).valu p = s.valu p := by
  apply State.memRead_of_dmem <;> rfl
@[simp] theorem State.valu_setExt (j : SpanReg) (e : Bool) (p : Span) : (s.setExt j e).valu p = s.valu p := by
  apply State.memRead_of_dmem <;> rfl
@[simp] theorem State.valu_complete (b : Bool) (p : Span) : (s.complete b).valu p = s.valu p := by
  apply State.memRead_of_dmem <;> rfl
@[simp] theorem State.valu_endCommand (p : Span) : s.endCommand.valu p = s.valu p := by
  apply State.memRead_of_dmem <;> rfl
@[simp] theorem State.valu_abort (c : Word) (code : ErrCode) (p : Span) : (s.abort c code).valu p = s.valu p := by
  apply State.memRead_of_dmem <;> rfl
/-- The value of a span is its digits', whatever its EXT. -/
@[simp] theorem State.valu_withExt (p : Span) (e : Bool) : s.valu { p with ext := e } = s.valu p := rfl
end unrelated

/-- Reset DMEM is in canonical form. -/
theorem Memory.reset_wf : Memory.wf State.reset.dmem = true := rfl

end Sys2Proof.Machine
end

