-- ==== Sys2Proof/Laws/Checks.lean ====
section
/-! SUPPORT. The checks of a command (R302): what `checked` answers, and the span checks in the spec's own words. -/

namespace Sys2Proof.Machine

/-! ### Spans -/

theorem Span.covers_iff (p : Span) (a : Nat) : p.covers a = true ↔ p.start ≤ a ∧ a < p.start + p.size := by
  simp [Span.covers]

theorem Span.not_covers_iff (p : Span) (a : Nat) : p.covers a = false ↔ a < p.start ∨ p.start + p.size ≤ a := by
  rw [← Bool.not_eq_true, Span.covers_iff]; omega

/-- R87: the OVERLAP check passes exactly when the regions do not intersect. -/
theorem Span.disjoint_iff (p q : Span) : p.disjoint q = true ↔ ¬ p.Meets q := by
  simp only [Span.disjoint, Span.Meets, Span.covers_iff, decide_eq_true_eq, not_exists]
  constructor
  · intro h a ha; omega
  · intro h
    by_contra hc
    exact h (max p.start q.start) (by omega)

theorem Span.Meets.symm {p q : Span} (h : p.Meets q) : q.Meets p := h.imp fun _ ha => ⟨ha.2, ha.1⟩

/-- R171 item 4: the sharing check in the spec's words. -/
theorem Span.shareable_iff (p q : Span) : p.shareable q = true ↔ ¬ p.Meets q ∨ p.base = q.base := by
  simp [Span.shareable, Span.disjoint_iff]

theorem Span.fits_iff (c : Params) (p : Span) : p.fits c = true ↔ p.start + p.size ≤ c.depth := by
  simp [Span.fits]

/-! ### Runs of checks -/

@[simp] theorem checked_nil (c : Word) (op : State → State) (s : State) : checked c [] op s = op s := rfl

theorem checked_cons (c : Word) (pass : Bool) (code : ErrCode) (rest : List (Bool × ErrCode)) (op : State → State)
    (s : State) :
    checked c ((pass, code) :: rest) op s = if pass then checked c rest op s else s.abort c code := by
  cases pass <;> rfl

/-- Everything a checked command can do: its operation, or an abort with the code of one of its checks. -/
theorem checked_cases (c : Word) (checks : List (Bool × ErrCode)) (op : State → State) (s : State) :
    (firstFailure checks = none ∧ checked c checks op s = op s) ∨
      ∃ code, firstFailure checks = some code ∧ (∃ pass, (pass, code) ∈ checks) ∧ checked c checks op s = s.abort c code := by
  induction checks with
  | nil => exact .inl ⟨rfl, rfl⟩
  | cons x rest ih =>
    obtain ⟨pass, code⟩ := x
    cases pass
    · exact .inr ⟨code, rfl, ⟨false, by simp⟩, rfl⟩
    · rcases ih with ⟨h1, h2⟩ | ⟨code', h1, ⟨b, hb⟩, h2⟩
      · exact .inl ⟨h1, h2⟩
      · exact .inr ⟨code', h1, ⟨b, by simp [hb]⟩, h2⟩

/-! ### One check, in the spec's own words -/

section oneCheck
variable (c : Word) (rest : List (Bool × ErrCode)) (op : State → State) (s : State)

/-- SPAN_RANGE (R84). -/
theorem checked_range (k : Params) (ps : List Span) :
    checked c (rangeCheck k ps :: rest) op s =
      if ∀ p ∈ ps, p.start + p.size ≤ k.depth then checked c rest op s else s.abort c .spanRange := by
  rw [rangeCheck, checked_cons]
  exact if_congr (by simp [List.all_eq_true, Span.fits_iff]) rfl rfl

/-- COUNT. -/
theorem checked_count (p : Prop) [Decidable p] :
    checked c (countCheck (decide p) :: rest) op s = if p then checked c rest op s else s.abort c .count := by
  rw [countCheck, checked_cons]; exact if_congr (by simp) rfl rfl

/-- EXT. -/
theorem checked_ext (ps : List Span) :
    checked c (extCheck ps :: rest) op s =
      if ∀ p ∈ ps, p.ext = false then checked c rest op s else s.abort c .ext := by
  rw [extCheck, checked_cons]
  exact if_congr (by simp [List.all_eq_true]) rfl rfl

/-- OVERLAP. -/
theorem checked_overlap (b : Bool) :
    checked c (overlapCheck b :: rest) op s = if b = true then checked c rest op s else s.abort c .overlap := by
  rw [overlapCheck, checked_cons]

/-- OVERLAP of two outputs (R210, R211, R250). -/
theorem checked_outputs (x y : DigitReg) :
    checked c (outputChecks x y) op s = if x = y then s.abort c .overlap else op s := by
  rw [outputChecks, checked_overlap, checked_nil]
  by_cases h : x = y <;> simp [h]

end oneCheck

/-- An abort is the spec's (R303), field by field. -/
theorem abort_eq (s : State) (c : Word) (code : ErrCode) :
    s.abort c code =
      { s with err := true, errCode := code, errCmd := c, everAborted := true, inFlight := none, done := true } := rfl

end Sys2Proof.Machine
end

