-- ==== Sys2Proof/Laws/Encoding.lean ====
section
/-! SUPPORT. The fields of a word that `commandWord` builds (R110). -/

namespace Sys2Proof

/-- The number of a command word is the sum of R110, which does not wrap. -/
theorem commandWord_toNat (opc s : Nat) (a b c d e f g : Fin 8) (ho : opc < 64) (hs : s < 2) :
    (commandWord opc s a b c d e f g).toNat = opc * 2 ^ 26 + s * 2 ^ 25 + a.val * 2 ^ 22 + b.val * 2 ^ 19
      + c.val * 2 ^ 16 + d.val * 2 ^ 13 + e.val * 2 ^ 10 + f.val * 2 ^ 7 + g.val * 2 ^ 4 := by
  simp only [commandWord, BitVec.toNat_ofNat]
  omega

section fields
variable (opc s : Nat) (a b c d e f g : Fin 8) (ho : opc < 64) (hs : s < 2)
include ho hs

theorem opc_commandWord : Word.opc (commandWord opc s a b c d e f g) = opc := by
  rw [Word.opc, commandWord_toNat _ _ _ _ _ _ _ _ _ ho hs]; omega
theorem sBit_commandWord : Word.sBit (commandWord opc s a b c d e f g) = s := by
  rw [Word.sBit, commandWord_toNat _ _ _ _ _ _ _ _ _ ho hs]; omega
theorem rsv_commandWord : Word.rsv (commandWord opc s a b c d e f g) = 0 := by
  rw [Word.rsv, commandWord_toNat _ _ _ _ _ _ _ _ _ ho hs]; omega
theorem fA_commandWord : Word.fA (commandWord opc s a b c d e f g) = a := by
  ext; simp only [Word.fA, Word.field, commandWord_toNat _ _ _ _ _ _ _ _ _ ho hs]; omega
theorem fB_commandWord : Word.fB (commandWord opc s a b c d e f g) = b := by
  ext; simp only [Word.fB, Word.field, commandWord_toNat _ _ _ _ _ _ _ _ _ ho hs]; omega
theorem fC_commandWord : Word.fC (commandWord opc s a b c d e f g) = c := by
  ext; simp only [Word.fC, Word.field, commandWord_toNat _ _ _ _ _ _ _ _ _ ho hs]; omega
theorem fD_commandWord : Word.fD (commandWord opc s a b c d e f g) = d := by
  ext; simp only [Word.fD, Word.field, commandWord_toNat _ _ _ _ _ _ _ _ _ ho hs]; omega
theorem fE_commandWord : Word.fE (commandWord opc s a b c d e f g) = e := by
  ext; simp only [Word.fE, Word.field, commandWord_toNat _ _ _ _ _ _ _ _ _ ho hs]; omega
theorem fF_commandWord : Word.fF (commandWord opc s a b c d e f g) = f := by
  ext; simp only [Word.fF, Word.field, commandWord_toNat _ _ _ _ _ _ _ _ _ ho hs]; omega
theorem fG_commandWord : Word.fG (commandWord opc s a b c d e f g) = g := by
  ext; simp only [Word.fG, Word.field, commandWord_toNat _ _ _ _ _ _ _ _ _ ho hs]; omega

end fields

/-- R110: a word is the word of its own fields, if RSV is 0. -/
theorem commandWord_of_fields (w : Word) (h : Word.rsv w = 0) :
    commandWord (Word.opc w) (Word.sBit w) (Word.fA w) (Word.fB w) (Word.fC w) (Word.fD w) (Word.fE w) (Word.fF w)
      (Word.fG w) = w := by
  have hw := w.isLt
  apply BitVec.eq_of_toNat_eq
  rw [commandWord_toNat _ _ _ _ _ _ _ _ _ (by unfold Word.opc; omega) (by unfold Word.sBit; omega)]
  simp only [Word.rsv] at h
  simp only [Word.opc, Word.sBit, Word.fA, Word.fB, Word.fC, Word.fD, Word.fE, Word.fF, Word.fG, Word.field]
  omega

theorem Range.bit_lt (r : Range) : r.bit < 2 := by cases r <;> decide

/-- R114: the range is read from the S bit as it is written. -/
theorem range_of_sBit {w : Word} {r : Range} (h : Word.sBit w = r.bit) : Word.range w = r := by
  cases r <;> simp [Word.range, h, Range.bit]

theorem bit_range (w : Word) : (Word.range w).bit = Word.sBit w := by
  have : Word.sBit w < 2 := Nat.mod_lt _ (by decide)
  unfold Word.range
  split <;> simp [Range.bit] <;> omega

/-! ### Decoding, row by row of R118 -/

/-- A word that decodes meets its row's conditions. -/
theorem legal_ok {ok : Bool} {i j : Instr} (h : legal ok i = .ok j) : ok = true ∧ i = j := by
  unfold legal at h; split at h <;> simp_all

section rows
variable {w : Word}
theorem decode_nop (h : Word.opc w = 0x00) :
    decode w = legal (decide (Word.sBit w = 0 ∧ Word.fA w = 0 ∧ Word.fB w = 0 ∧ Word.fC w = 0 ∧ Word.fD w = 0 ∧ Word.fE w = 0 ∧ Word.fF w = 0 ∧ Word.fG w = 0 ∧ Word.rsv w = 0))
      .nop := by simp only [decode, h]
theorem decode_clrf (h : Word.opc w = 0x01) :
    decode w = legal (decide (Word.sBit w = 0 ∧ Word.fA w = 0 ∧ Word.fB w = 0 ∧ Word.fC w = 0 ∧ Word.fD w = 0 ∧ Word.fE w = 0 ∧ Word.fF w = 0 ∧ Word.fG w = 0 ∧ Word.rsv w = 0))
      .clrf := by simp only [decode, h]
theorem decode_incd (h : Word.opc w = 0x08) :
    decode w = legal (decide (Word.fB w = 0 ∧ Word.fC w = 0 ∧ Word.fD w = 0 ∧ Word.fF w = 0 ∧ Word.fG w = 0 ∧ Word.rsv w = 0))
      (.incd (Word.range w) (Word.fA w) (Word.fE w)) := by simp only [decode, h]
theorem decode_decd (h : Word.opc w = 0x09) :
    decode w = legal (decide (Word.fB w = 0 ∧ Word.fC w = 0 ∧ Word.fD w = 0 ∧ Word.fF w = 0 ∧ Word.fG w = 0 ∧ Word.rsv w = 0))
      (.decd (Word.range w) (Word.fA w) (Word.fE w)) := by simp only [decode, h]
theorem decode_incs (h : Word.opc w = 0x0A) :
    decode w = legal (decide (Word.fC w = 0 ∧ Word.fD w = 0 ∧ Word.fE w = 0 ∧ Word.fF w = 0 ∧ Word.fG w = 0 ∧ Word.rsv w = 0))
      (.incs (Word.range w) (Word.fA w) (Word.fB w)) := by simp only [decode, h]
theorem decode_decs (h : Word.opc w = 0x0B) :
    decode w = legal (decide (Word.fC w = 0 ∧ Word.fD w = 0 ∧ Word.fE w = 0 ∧ Word.fF w = 0 ∧ Word.fG w = 0 ∧ Word.rsv w = 0))
      (.decs (Word.range w) (Word.fA w) (Word.fB w)) := by simp only [decode, h]
theorem decode_neg (h : Word.opc w = 0x0C) :
    decode w = legal (decide (Word.fB w = 0 ∧ Word.fC w = 0 ∧ Word.fD w = 0 ∧ Word.fE w = 0 ∧ Word.fF w = 0 ∧ Word.fG w = 0 ∧ Word.rsv w = 0))
      (.neg (Word.range w) (Word.fA w)) := by simp only [decode, h]
theorem decode_macd (h : Word.opc w = 0x0D) :
    decode w = legal (decide (Word.sBit w = 0 ∧ Word.fC w = 0 ∧ Word.fD w = 0 ∧ Word.rsv w = 0))
      (.macd (Word.fA w) (Word.fB w) (Word.fE w) (Word.fF w) (Word.fG w)) := by simp only [decode, h]
theorem decode_mulp (h : Word.opc w = 0x10) :
    decode w = legal (decide (Word.sBit w = 0 ∧ Word.fC w = 0 ∧ Word.fD w = 0 ∧ Word.fG w = 0 ∧ Word.rsv w = 0))
      (.mulp (Word.fA w) (Word.fB w) (Word.fE w) (Word.fF w)) := by simp only [decode, h]
theorem decode_mulpa (h : Word.opc w = 0x11) :
    decode w = legal (decide (Word.sBit w = 0 ∧ Word.fC w = 0 ∧ Word.fD w = 0 ∧ Word.rsv w = 0))
      (.mulpa (Word.fA w) (Word.fB w) (Word.fE w) (Word.fF w) (Word.fG w)) := by simp only [decode, h]
theorem decode_muld (h : Word.opc w = 0x12) :
    decode w = legal (decide (Word.sBit w = 0 ∧ Word.fB w = 0 ∧ Word.fC w = 0 ∧ Word.fD w = 0 ∧ Word.rsv w = 0))
      (.muld (Word.fA w) (Word.fE w) (Word.fF w) (Word.fG w)) := by simp only [decode, h]
theorem decode_mul (h : Word.opc w = 0x13) :
    decode w = legal (decide (Word.sBit w = 0 ∧ Word.fD w = 0 ∧ Word.fF w = 0 ∧ Word.fG w = 0 ∧ Word.rsv w = 0 ∧ (Word.fE w).val ≤ 2))
      (.mul (Word.fA w) (Word.fB w) (Word.fC w) (Word.fE w)) := by simp only [decode, h]
theorem decode_sqr (h : Word.opc w = 0x14) :
    decode w = legal (decide (Word.sBit w = 0 ∧ Word.fC w = 0 ∧ Word.fD w = 0 ∧ Word.fF w = 0 ∧ Word.fG w = 0 ∧ Word.rsv w = 0 ∧ (Word.fE w).val ≤ 2))
      (.sqr (Word.fA w) (Word.fB w) (Word.fE w)) := by simp only [decode, h]
theorem decode_divp (h : Word.opc w = 0x18) :
    decode w = legal (decide (Word.sBit w = 0 ∧ Word.fC w = 0 ∧ Word.fD w = 0 ∧ Word.rsv w = 0))
      (.divp (Word.fA w) (Word.fB w) (Word.fE w) (Word.fF w) (Word.fG w)) := by simp only [decode, h]
theorem decode_divd (h : Word.opc w = 0x19) :
    decode w = legal (decide (Word.sBit w = 0 ∧ Word.fB w = 0 ∧ Word.fC w = 0 ∧ Word.fD w = 0 ∧ Word.fG w = 0 ∧ Word.rsv w = 0))
      (.divd (Word.fA w) (Word.fE w) (Word.fF w)) := by simp only [decode, h]
theorem decode_remd (h : Word.opc w = 0x1A) :
    decode w = legal (decide (Word.sBit w = 0 ∧ Word.fB w = 0 ∧ Word.fC w = 0 ∧ Word.fD w = 0 ∧ Word.fG w = 0 ∧ Word.rsv w = 0))
      (.remd (Word.fA w) (Word.fE w) (Word.fF w)) := by simp only [decode, h]
theorem decode_ldiv (h : Word.opc w = 0x1B) :
    decode w = legal (decide (Word.sBit w = 0 ∧ Word.fE w = 0 ∧ Word.fF w = 0 ∧ Word.fG w = 0 ∧ Word.rsv w = 0))
      (.ldiv (Word.fA w) (Word.fB w) (Word.fC w) (Word.fD w)) := by simp only [decode, h]
/-- A reserved OPC is rejected, whatever the other fields are (R119). -/
theorem decode_illegal (h : Word.opc w ∉ [0x00, 0x01, 0x08, 0x09, 0x0A, 0x0B, 0x0C, 0x0D, 0x10, 0x11, 0x12, 0x13, 0x14,
    0x18, 0x19, 0x1A, 0x1B]) : decode w = .error .illegalOpcode := by
  simp only [List.mem_cons, List.not_mem_nil, or_false, not_or] at h
  unfold decode
  split <;> first | rfl | omega
end rows

end Sys2Proof
end

