-- ==== Sys2Proof/Laws/Flags.lean ====
section
/-! SUPPORT. What `complete`, `writeSpan`, `writeBack` and `writeWithCarry` do, once for every command that ends in them. -/

namespace Sys2Proof.Machine

/-! ### The wrapped value -/

theorem Span.modulus_pos (c : Params) (p : Span) : 0 < p.modulus c := Nat.pow_pos c.radix_pos

theorem Span.modulus_eq (c : Params) (p : Span) : p.modulus c = 2 ^ (p.size * c.bits) := by
  rw [Span.modulus, Params.radix, ← Nat.pow_mul, Nat.mul_comm]

theorem State.valu_lt (s : State) (p : Span) : s.valu p < p.modulus s.cfg := s.memRead_lt _ _

theorem wrap_cast (m : Nat) (hm : 0 < m) (r : Int) : ((wrap m r : Nat) : Int) = r % (m : Int) := by
  rw [wrap, Int.toNat_of_nonneg (Int.emod_nonneg _ (by omega))]

theorem wrap_lt (m : Nat) (hm : 0 < m) (r : Int) : wrap m r < m := by
  have := wrap_cast m hm r
  have := Int.emod_lt_of_pos r (show (0 : Int) < m by omega)
  omega

@[simp] theorem wrap_natCast (m v : Nat) : wrap m (v : Int) = v % m := by
  rw [wrap, ← Int.natCast_mod]; exact Int.toNat_natCast _

/-! ### Spans after a write -/

theorem State.valu_congr {s t : State} {p q : Span} (hb : q.start = p.start) (hn : q.size = p.size) (hc : t.cfg = s.cfg)
    (h : ∀ a, p.covers a = true → t.readDigit a = s.readDigit a) : t.valu q = s.valu p := by
  unfold State.valu
  rw [hb, hn]
  exact State.memRead_congr hc fun i hi => h _ ((Span.covers_iff _ _).2 (by omega))

/-- The region of a span that was written holds the wrapped value. -/
theorem State.valu_writeSpan (s : State) (k : SpanReg) (v : Nat) (e : Bool) :
    (s.writeSpan k v e).valu (s.span k) = v % (s.span k).modulus s.cfg := by
  rw [State.writeSpan, State.valu_setExt]; exact s.memRead_memWrite_same _ _ _

theorem State.readDigit_writeSpan_outside (s : State) (k : SpanReg) (v : Nat) (e : Bool) {a : Nat}
    (h : (s.span k).covers a = false) : (s.writeSpan k v e).readDigit a = s.readDigit a :=
  s.readDigit_memWrite_outside _ _ _ _ ((Span.not_covers_iff _ _).1 h)

/-- A span whose region does not meet the one written keeps its value. -/
theorem State.valu_writeSpan_disjoint (s : State) (k : SpanReg) (v : Nat) (e : Bool) {p : Span}
    (h : ¬ (s.span k).Meets p) : (s.writeSpan k v e).valu p = s.valu p :=
  State.valu_congr rfl rfl rfl fun a ha => s.readDigit_writeSpan_outside k v e <| by
    by_contra hc; exact h ⟨a, by simpa using hc, ha⟩

/-! ### Ends of commands -/

/-- R150: what `complete` leaves, and its frame. -/
theorem complete_completed (s t : State) (ovf : Bool) (hs : t.sticky = s.sticky) (he : SameError s t)
    (hset : SameSetup s t) : Completed s (t.complete ovf) ovf :=
  ⟨rfl, rfl, rfl, by simp [hs], he, hset⟩

/-- R170, R150: the write-back, whole. -/
theorem writeBack_spec (s : State) (k : SpanReg) (range : Range) (r : Int) :
    WroteBack s (s.writeBack k range r) k range r := by
  have hm := (s.span k).modulus_pos s.cfg
  have hcast : ((s.span k).modulus s.cfg : Int) = (s.cfg.radix : Int) ^ (s.span k).size := by simp [Span.modulus]
  have hval : (s.writeBack k range r).valu (s.span k) = wrap ((s.span k).modulus s.cfg) r := by
    rw [State.writeBack, State.valu_complete, State.valu_writeSpan, Nat.mod_eq_of_lt (wrap_lt _ hm _)]
  refine ⟨?_, ?_, ?_, fun a ha => ?_, fun j hj => ?_, fun j _ => rfl⟩
  · rw [hval, wrap_cast _ hm, hcast]
  · rw [hval]
    show ((s.writeSpan k _ _).span k) = _
    rw [State.span_writeSpan_same]
    cases range <;> rfl
  · have := complete_completed s (s.writeSpan k (wrap ((s.span k).modulus s.cfg) r)
      (resultExt range ((s.span k).size * s.cfg.bits) (wrap ((s.span k).modulus s.cfg) r)))
      (overflows range ((s.span k).modulus s.cfg) r) rfl ⟨rfl, rfl, rfl, rfl⟩ ⟨rfl, rfl, rfl, rfl, rfl, rfl⟩
    rw [← hcast]
    cases range <;> simpa only [overflows, State.writeBack, decide_not] using this
  · rw [State.writeBack, State.readDigit_complete, s.readDigit_writeSpan_outside k _ _ (by simpa using ha)]
  · rw [State.writeBack, State.span_complete, s.span_writeSpan_of_ne _ _ (by simpa using hj)]

/-- R177, R212: the end that MACD and MULD share, whole. -/
theorem writeWithCarry_spec (s : State) (k : SpanReg) (carry : DigitReg) (r : Nat)
    (hr : r / (s.span k).modulus s.cfg < s.cfg.radix) :
    let t := s.writeWithCarry k carry r
    let c := r / (s.span k).modulus s.cfg
    Holds s t k (r % (s.span k).modulus s.cfg) false ∧ t.readDr carry = c ∧ Completed s t (decide (c ≠ 0)) ∧
      DigitsSameOutside s t [s.span k] ∧ SpansSameBut s t [k] ∧ DrsSameBut s t [carry] := by
  refine ⟨⟨?_, s.span_writeSpan_same _ _ _⟩, ?_, ?_, fun a ha => ?_, fun j hj => ?_, fun j hj => ?_⟩
  · rw [State.writeWithCarry, State.valu_complete, State.valu_writeDr, State.valu_writeSpan, Nat.mod_mod]
  · show ((s.writeSpan k _ false).writeDr carry _).readDr carry = _
    rw [State.readDr_writeDr_same]
    exact Nat.mod_eq_of_lt hr
  · exact ⟨rfl, rfl, rfl, rfl, ⟨rfl, rfl, rfl, rfl⟩, ⟨rfl, rfl, rfl, rfl, rfl, rfl⟩⟩
  · exact s.readDigit_writeSpan_outside k _ false (by simpa using ha)
  · exact s.span_writeSpan_of_ne _ _ (by simpa using hj)
  · have h' : carry.val ≠ j.val := fun e => hj (by simp [Fin.ext e.symm])
    show (s.dr.set carry _)[j] = s.dr[j]
    simp [h']

/-- R210, R211, R250: the end of the commands with two digit outputs, whole. -/
theorem completePair_spec (s : State) {k1 k2 : DigitReg} (v1 v2 : Nat) (ovf : Bool) (hk : k1 ≠ k2)
    (h1 : v1 < s.cfg.radix) (h2 : v2 < s.cfg.radix) :
    let t := ((s.writeDr k1 v1).writeDr k2 v2).complete ovf
    t.readDr k1 = v1 ∧ t.readDr k2 = v2 ∧ Completed s t ovf ∧ t.dmem = s.dmem ∧ t.sp = s.sp ∧ DrsSameBut s t [k1, k2] := by
  refine ⟨?_, ?_, complete_completed _ _ _ rfl ⟨rfl, rfl, rfl, rfl⟩ ⟨rfl, rfl, rfl, rfl, rfl, rfl⟩, rfl, rfl, fun k hk' => ?_⟩
  · rw [State.readDr_complete, State.readDr_writeDr_of_ne _ _ hk, State.readDr_writeDr_same, Nat.mod_eq_of_lt h1]
  · rw [State.readDr_complete, State.readDr_writeDr_same]; exact Nat.mod_eq_of_lt h2
  · simp only [List.mem_cons, List.not_mem_nil, or_false, not_or] at hk'
    have e1 : k1.val ≠ k.val := fun e => hk'.1 (Fin.ext e.symm)
    have e2 : k2.val ≠ k.val := fun e => hk'.2 (Fin.ext e.symm)
    show ((s.dr.set k1 _).set k2 _)[k] = s.dr[k]
    simp [e1, e2]

/-- R213, R214: the end of the commands with one destination span and no digit output, whole. -/
theorem completeSpan_spec (s : State) (k : SpanReg) (v : Nat) (ovf : Bool) (h : v < (s.span k).modulus s.cfg) :
    let t := (s.writeSpan k v false).complete ovf
    Holds s t k v false ∧ Completed s t ovf ∧ DigitsSameOutside s t [s.span k] ∧ SpansSameBut s t [k] ∧
      DrsSameBut s t [] := by
  refine ⟨⟨?_, s.span_writeSpan_same _ _ _⟩,
    complete_completed _ _ _ rfl ⟨rfl, rfl, rfl, rfl⟩ ⟨rfl, rfl, rfl, rfl, rfl, rfl⟩, fun a ha => ?_, fun j hj => ?_,
    fun j _ => rfl⟩
  · rw [State.valu_complete, State.valu_writeSpan, Nat.mod_eq_of_lt h]
  · exact s.readDigit_writeSpan_outside k _ false (by simpa using ha)
  · exact s.span_writeSpan_of_ne _ _ (by simpa using hj)

/-- R253: the end of LDIV, whole: two destination spans with regions apart. -/
theorem completeSpans_spec (s : State) {k1 k2 : SpanReg} (v1 v2 : Nat) (ovf : Bool) (hk : k1 ≠ k2)
    (hd : ¬ (s.span k1).Meets (s.span k2)) (h1 : v1 < (s.span k1).modulus s.cfg) (h2 : v2 < (s.span k2).modulus s.cfg) :
    let t := ((s.writeSpan k1 v1 false).writeSpan k2 v2 false).complete ovf
    Holds s t k1 v1 false ∧ Holds s t k2 v2 false ∧ Completed s t ovf ∧
      DigitsSameOutside s t [s.span k1, s.span k2] ∧ SpansSameBut s t [k1, k2] ∧ DrsSameBut s t [] := by
  have e2 : (s.writeSpan k1 v1 false).span k2 = s.span k2 := s.span_writeSpan_of_ne _ _ hk.symm
  refine ⟨⟨?_, ?_⟩, ⟨?_, ?_⟩,
    complete_completed _ _ _ rfl ⟨rfl, rfl, rfl, rfl⟩ ⟨rfl, rfl, rfl, rfl, rfl, rfl⟩, fun a ha => ?_, fun j hj => ?_,
    fun j _ => rfl⟩
  · rw [State.valu_complete, State.valu_writeSpan_disjoint _ _ _ _ (by rw [e2]; exact fun h => hd h.symm),
      State.valu_writeSpan, Nat.mod_eq_of_lt h1]
  · rw [State.span_complete, State.span_writeSpan_of_ne _ _ _ hk, State.span_writeSpan_same]
  · have := (s.writeSpan k1 v1 false).valu_writeSpan k2 v2 false
    rw [e2] at this
    rw [State.valu_complete, this]
    exact Nat.mod_eq_of_lt h2
  · rw [State.span_complete, State.span_writeSpan_same, e2]
  · rw [State.readDigit_complete, State.readDigit_writeSpan_outside _ _ _ _ (by rw [e2]; exact ha _ (by simp)),
      s.readDigit_writeSpan_outside k1 _ _ (ha _ (by simp))]
  · simp only [List.mem_cons, List.not_mem_nil, or_false, not_or] at hj
    rw [State.span_complete, State.span_writeSpan_of_ne _ _ _ hj.2, State.span_writeSpan_of_ne _ _ _ hj.1]

end Sys2Proof.Machine
end

