-- ==== Sys2Proof/Laws/PerInstr.lean ====
section
/-! SUPPORT. Statements about the instruction as syntax, one lemma for each constructor of Instr. -/

namespace Sys2Proof.Laws.EncodedOpcode

/-- R110, R115, R118: the word of the instruction has its opcode in OPC and 0 in RSV. -/
def Statement (i : Instr) : Prop := Word.opc (encode i) = i.opcode ∧ Word.rsv (encode i) = 0

/-- A word built by R110 from a 6-bit opcode and a 1-bit S. -/
theorem of_commandWord (opc s : Nat) (a b c d e f g : Fin 8) (ho : opc < 64) (hs : s < 2) :
    Word.opc (commandWord opc s a b c d e f g) = opc ∧ Word.rsv (commandWord opc s a b c d e f g) = 0 :=
  ⟨opc_commandWord _ _ _ _ _ _ _ _ _ ho hs, rsv_commandWord _ _ _ _ _ _ _ _ _ ho hs⟩

theorem nop : Statement (.nop) :=
  of_commandWord 0x00 _ _ _ _ _ _ _ _ (by decide) (by decide)
theorem clrf : Statement (.clrf) :=
  of_commandWord 0x01 _ _ _ _ _ _ _ _ (by decide) (by decide)
theorem incd (range : Range) (sd : SpanReg) (d : DigitReg) : Statement (.incd range sd d) :=
  of_commandWord 0x08 _ _ _ _ _ _ _ _ (by decide) (range.bit_lt)
theorem decd (range : Range) (sd : SpanReg) (d : DigitReg) : Statement (.decd range sd d) :=
  of_commandWord 0x09 _ _ _ _ _ _ _ _ (by decide) (range.bit_lt)
theorem incs (range : Range) (sd sa : SpanReg) : Statement (.incs range sd sa) :=
  of_commandWord 0x0A _ _ _ _ _ _ _ _ (by decide) (range.bit_lt)
theorem decs (range : Range) (sd sa : SpanReg) : Statement (.decs range sd sa) :=
  of_commandWord 0x0B _ _ _ _ _ _ _ _ (by decide) (range.bit_lt)
theorem neg (range : Range) (sd : SpanReg) : Statement (.neg range sd) :=
  of_commandWord 0x0C _ _ _ _ _ _ _ _ (by decide) (range.bit_lt)
theorem macd (sd sa : SpanReg) (m a carry : DigitReg) : Statement (.macd sd sa m a carry) :=
  of_commandWord 0x0D _ _ _ _ _ _ _ _ (by decide) (by decide)
theorem mulp (lo hi x y : DigitReg) : Statement (.mulp lo hi x y) :=
  of_commandWord 0x10 _ _ _ _ _ _ _ _ (by decide) (by decide)
theorem mulpa (lo hi x y z : DigitReg) : Statement (.mulpa lo hi x y z) :=
  of_commandWord 0x11 _ _ _ _ _ _ _ _ (by decide) (by decide)
theorem muld (sd : SpanReg) (m a carry : DigitReg) : Statement (.muld sd m a carry) :=
  of_commandWord 0x12 _ _ _ _ _ _ _ _ (by decide) (by decide)
theorem mul (sd sa sb : SpanReg) (alg : AlgField) : Statement (.mul sd sa sb alg) :=
  of_commandWord 0x13 _ _ _ _ _ _ _ _ (by decide) (by decide)
theorem sqr (sd sa : SpanReg) (alg : AlgField) : Statement (.sqr sd sa alg) :=
  of_commandWord 0x14 _ _ _ _ _ _ _ _ (by decide) (by decide)
theorem divp (q r h l v : DigitReg) : Statement (.divp q r h l v) :=
  of_commandWord 0x18 _ _ _ _ _ _ _ _ (by decide) (by decide)
theorem divd (sd : SpanReg) (v r : DigitReg) : Statement (.divd sd v r) :=
  of_commandWord 0x19 _ _ _ _ _ _ _ _ (by decide) (by decide)
theorem remd (sa : SpanReg) (v r : DigitReg) : Statement (.remd sa v r) :=
  of_commandWord 0x1A _ _ _ _ _ _ _ _ (by decide) (by decide)
theorem ldiv (sq sr sa sb : SpanReg) : Statement (.ldiv sq sr sa sb) :=
  of_commandWord 0x1B _ _ _ _ _ _ _ _ (by decide) (by decide)

end Sys2Proof.Laws.EncodedOpcode
end

