-- ==== Sys2Proof/Laws/Step.lean ====
section
/-! SUPPORT. What the engine, the host port and a step do, case by case: later proofs cite these and unfold none of them. -/

namespace Sys2Proof.Machine

/-! ### The engine -/

/-- R304: a command is discarded while the error is latched. -/
theorem runCommand_latched {s : State} (c : Word) (h : s.err = true) : runCommand c s = .next s.endCommand := by
  simp [runCommand, h]

/-- R302: a command that decodes runs. -/
theorem runCommand_ok {s : State} {c : Word} {i : Instr} (h : s.err = false) (hd : decode c = .ok i) :
    runCommand c s = exec i s := by
  simp [runCommand, h, hd]

/-- R122: a word that does not decode aborts. -/
theorem runCommand_error {s : State} {c : Word} {e : DecodeError} (h : s.err = false) (hd : decode c = .error e) :
    runCommand c s = .next (s.abort c (ErrCode.ofDecode e)) := by
  simp [runCommand, h, hd]

/-- Everything the engine can do with a word: discard it, run its command, or abort it. -/
theorem runCommand_cases (c : Word) (s : State) :
    (s.err = true ∧ runCommand c s = .next s.endCommand) ∨
    (s.err = false ∧ ∃ i, decode c = .ok i ∧ runCommand c s = exec i s) ∨
    (s.err = false ∧ ∃ e, decode c = .error e ∧ runCommand c s = .next (s.abort c (ErrCode.ofDecode e))) := by
  cases he : s.err with
  | true => exact .inl ⟨rfl, runCommand_latched c he⟩
  | false =>
    cases hd : decode c with
    | ok i => exact .inr (.inl ⟨rfl, i, rfl, runCommand_ok he hd⟩)
    | error e => exact .inr (.inr ⟨rfl, e, rfl, runCommand_error he hd⟩)

theorem ErrCode.ofDecode_ne_none (e : DecodeError) : ErrCode.ofDecode e ≠ .none := by cases e <;> decide

/-! ### The host port -/

theorem portOffset_of_le {c : Params} {addr : Nat} (h : c.umnBase ≤ addr) : portOffset c addr = some (addr - c.umnBase) := by
  simp [portOffset, h]

theorem portOffset_of_lt {c : Params} {addr : Nat} (h : addr < c.umnBase) : portOffset c addr = none := by
  simp [portOffset, h]

theorem serve_read {s : State} {addr : Nat} (h : s.cfg.umnBase ≤ addr) :
    s.serve (.read addr) =
      { s with readLog := s.portRead (portReg s.cfg (addr - s.cfg.umnBase)) :: s.readLog } := by
  simp [State.serve, portOffset_of_le h]

theorem serve_write {s : State} {addr : Nat} (v : Word) (h : s.cfg.umnBase ≤ addr) :
    s.serve (.write addr v) = s.portWrite (portReg s.cfg (addr - s.cfg.umnBase)) v := by
  simp [State.serve, portOffset_of_le h]

/-- R90: the two low address bits are ignored. -/
theorem portReg_add (c : Params) {o low : Nat} (ho : o % 4 = 0) (hl : low < 4) : portReg c (o + low) = portRegAt c o := by
  unfold portReg; congr 1; omega

/-- R48: STATUS is the word at 0x014, and no other. -/
theorem portReg_eq_status_iff (c : Params) (o : Nat) : portReg c o = .status ↔ o / 4 = 5 := by
  have hd : (o - o % 4) / 4 = o / 4 := by omega
  unfold portReg portRegAt
  split
  · rw [hd]
    constructor
    · intro h
      split at h
      case h_6 h5 => exact h5
      all_goals cases h
    · intro h
      simp [h]
  · refine ⟨fun h => ?_, fun h => by omega⟩
    split at h
    · split at h <;> cases h
    · split at h
      · split at h <;> cases h
      · split at h
        · split at h <;> cases h
        · cases h

/-- A read of the block waits unless it is of STATUS. -/
theorem stalls_read {c : Params} {addr : Nat} (h : c.umnBase ≤ addr) :
    stalls c (.read addr) = decide (portReg c (addr - c.umnBase) ≠ .status) := by
  simp [stalls, portOffset_of_le h]

/-- A write to the block waits. -/
theorem stalls_write {c : Params} {addr : Nat} (v : Word) (h : c.umnBase ≤ addr) : stalls c (.write addr v) = true := by
  simp [stalls, portOffset_of_le h]

/-- An access below the block's base does nothing to the block. -/
theorem serve_below {s : State} {addr : Nat} (h : addr < s.cfg.umnBase) (v : Word) :
    s.serve (.read addr) = s ∧ s.serve (.write addr v) = s := by
  simp [State.serve, portOffset_of_lt h]

/-- What does not stall while a command is in flight: a read of STATUS, an access below the base, the reset input. -/
theorem not_stalls_cases {c : Params} {op : HostOp} (h : stalls c op = false) :
    (∃ addr, op = .read addr ∧ c.umnBase ≤ addr ∧ portReg c (addr - c.umnBase) = .status) ∨
    (∃ addr, addr < c.umnBase ∧ (op = .read addr ∨ ∃ v, op = .write addr v)) ∨ op = .reset := by
  cases op with
  | read addr =>
    by_cases hb : c.umnBase ≤ addr
    · exact .inl ⟨addr, rfl, hb, by simpa [stalls, portOffset_of_le hb] using h⟩
    · exact .inr (.inl ⟨addr, by omega, .inl rfl⟩)
  | write addr v =>
    by_cases hb : c.umnBase ≤ addr
    · simp [stalls, portOffset_of_le hb] at h
    · exact .inr (.inl ⟨addr, by omega, .inr ⟨v, rfl⟩⟩)
  | reset => exact .inr (.inr rfl)

/-! ### The step -/

/-- With nothing in flight and nothing pending the machine keeps its state (R316). -/
theorem step_idle {s : State} (h : s.inFlight = none) (he : s.events = []) : step s = .next s := by
  simp [step, h, he]

/-- With nothing in flight the outside world's next act is served. -/
theorem step_serve {s : State} {ev : HostEvent} {rest : List HostEvent} (h : s.inFlight = none) (he : s.events = ev :: rest) :
    step s = .next (State.serve { s with events := rest } ev.op) := by
  simp [step, h, he]

/-- With a command in flight an early act that does not stall is served first. -/
theorem step_early {s : State} {c : Word} {ev : HostEvent} {rest : List HostEvent} (h : s.inFlight = some c)
    (he : s.events = ev :: rest) (hearly : ev.early = true) (hs : stalls s.cfg ev.op = false) :
    step s = .next (State.serve { s with events := rest } ev.op) := by
  simp [step, h, he, hearly, hs]

/-- With a command in flight and nothing coming first, the engine runs it. -/
theorem step_engine {s : State} {c : Word} (h : s.inFlight = some c) (hn : s.EngineNext) : step s = runCommand c s := by
  cases he : s.events with
  | nil => simp [step, h, he]
  | cons ev rest =>
    have := hn ev (by simp [he])
    rcases this with h1 | h1 <;> simp [step, h, he, h1]

/-- Everything a step can do. -/
theorem step_cases (s : State) :
    (s.inFlight = none ∧ s.events = [] ∧ step s = .next s) ∨
    (∃ ev rest, s.events = ev :: rest ∧ (s.inFlight = none ∨ (ev.early = true ∧ stalls s.cfg ev.op = false)) ∧
      step s = .next (State.serve { s with events := rest } ev.op)) ∨
    (∃ c, s.inFlight = some c ∧ s.EngineNext ∧ step s = runCommand c s) := by
  rcases Option.eq_none_or_eq_some s.inFlight with h | ⟨c, h⟩
  · cases he : s.events with
    | nil => exact .inl ⟨h, rfl, step_idle h he⟩
    | cons ev rest => exact .inr (.inl ⟨ev, rest, rfl, .inl h, step_serve h he⟩)
  · by_cases hn : s.EngineNext
    · exact .inr (.inr ⟨c, h, hn, step_engine h hn⟩)
    · cases he : s.events with
      | nil => exact absurd (fun ev hev => by simp [he] at hev) hn
      | cons ev rest =>
        have hev : ¬ (ev.early = false ∨ stalls s.cfg ev.op = true) := fun hc =>
          hn fun e hm => by simp only [he, List.head?_cons, Option.mem_def, Option.some.injEq] at hm; exact hm ▸ hc
        simp only [not_or, Bool.not_eq_false, Bool.not_eq_true] at hev
        exact .inr (.inl ⟨ev, rest, rfl, .inr hev, step_early h he hev.1 hev.2⟩)

end Sys2Proof.Machine
end

