-- ==== Sys2Proof/Machine/HostProgram.lean ====
section
/-! DEFINITION. The host-program notation of R125 as lists of host accesses, and running them. The host's own variables,
labels and branches are not the engine's (R43) and are not here. -/

namespace Sys2Proof.Machine

/-- `wr`: the word v to the register at the block offset o. -/
def hostWrite (c : Params) (o : Nat) (v : Word) : HostEvent := { op := .write (c.umnBase + o) v, early := false }

/-- `rd`: a read of the register at the block offset o. -/
def hostRead (c : Params) (o : Nat) : HostEvent := { op := .read (c.umnBase + o), early := false }

/-- `setsp n, base, count, ext`. -/
def setSp (c : Params) (n : SpanReg) (base count : Word) (ext : Bool) : List HostEvent :=
  [hostWrite c (0x40 + 0x10 * n.val) base, hostWrite c (0x44 + 0x10 * n.val) count,
    hostWrite c (0x48 + 0x10 * n.val) (BitVec.ofNat 32 ext.toNat)]

/-- The writes of a digit v to its LO slot at offset o, and to HI too when W = 64. -/
def setSlots (c : Params) (o v : Nat) : List HostEvent :=
  hostWrite c o (BitVec.ofNat 32 v) ::
    (if c.bits = 64 then [hostWrite c (o + 4) (BitVec.ofNat 32 (v / 2 ^ 32))] else [])

/-- `setdr k, v`. -/
def setDr (c : Params) (k : DigitReg) (v : Nat) : List HostEvent := setSlots c (0x100 + 8 * k.val) v

/-- `setm a, d0, d1, ...`. -/
def setM (c : Params) (a : Nat) : List Nat → List HostEvent
  | [] => []
  | d :: ds => setSlots c (0x1000 + 8 * a) d ++ setM c (a + 1) ds

/-- `cmd WORD`. -/
def hostCmd (c : Params) (w : Word) : List HostEvent := [hostWrite c 0x018 w]

/-- `wait`, for a read of STATUS that comes after the command's end: DONE is read as 1 and then cleared. -/
def hostWait (c : Params) : List HostEvent := [hostRead c 0x014, hostWrite c 0x014 2]

/-- The host's accesses after those already pending. -/
def State.withHost (s : State) (evs : List HostEvent) : State := { s with events := s.events ++ evs }

/-- Up to `fuel` steps, stopping when nothing is pending and no command is in flight. -/
def State.drain : Nat → State → Host.Outcome State Fault Refusal
  | 0, s => .next s
  | fuel + 1, s =>
    if s.inFlight.isNone && s.events.isEmpty then .next s
    else
      match step s with
      | .next t => State.drain fuel t
      | .fault f => .fault f
      | .refused r => .refused r

end Sys2Proof.Machine
end

