-- ==== Sys2Proof/Tests/Slice0.lean ====
section
/-! SUPPORT. Tests: ill-formed commands are refused, words written out from R110, R112 and R118 decode, one or two steps of
each command give what the vectors of 95_test_vectors.md give, and the hypotheses of the statements can be met. -/

namespace Sys2Proof.Tests

open Sys2Proof.Machine

/-! ### Small states -/

/-- Digits least-significant first from the address a. -/
def cells (a : Nat) : List Nat → Memory
  | [] => []
  | d :: ds => (a, BitVec.ofNat 64 d) :: cells (a + 1) ds

/-- A state after reset, but for DMEM, DR0.. and SP0.. as given (0 and the reset descriptor for the rest). -/
def mk (m : Memory) (dr : List Nat) (sp : List (Nat × Nat × Bool)) : State :=
  { State.reset with
    dmem := m
    dr := Vector.ofFn fun k => BitVec.ofNat 64 (dr.getD k 0)
    sp := Vector.ofFn fun k =>
      match sp.getD k (0, 0, false) with
      | (b, c, e) => { base := BitVec.ofNat 32 b, count := BitVec.ofNat 32 c, ext := e } }

/-- The state at another digit width. -/
def wide (w : DigitWidth) (s : State) : State := { s with cfg := { s.cfg with width := w } }

/-- One step from s with the word w issued. -/
def after (s : State) (w : Nat) : State :=
  match step (s.withFetchWord 32 w) with
  | .next t => t
  | .fault _ => s
  | .refused _ => s

/-- The next state of one step. -/
def stepped (s : State) : State :=
  match step s with
  | .next t => t
  | .fault _ => s
  | .refused _ => s

/-- The n digits at a, least-significant first. -/
def digits (s : State) (a : Nat) : Nat → List Nat
  | 0 => []
  | n + 1 => s.readDigit a :: digits s (a + 1) n

/-- OVF, STICKY, ERR and ERRCODE. -/
def flags (s : State) : Bool × Bool × Bool × Nat := (s.ovf, s.sticky, s.err, s.errCode.number)

/-- A span with the four parts of a vector's line: BASE, COUNT, EXT 0. -/
def at0 (a n : Nat) : Nat × Nat × Bool := (a, n, false)

/-! ### WellFormed: ill-formed terms are refused (R116) -/

theorem test_wf_mul_alg3 : (Instr.mul 2 0 1 3).wellFormed = false := by decide
theorem test_wf_mul_alg7 : (Instr.mul 2 0 1 7).wellFormed = false := by decide
theorem test_wf_sqr_alg3 : (Instr.sqr 1 0 3).wellFormed = false := by decide
theorem test_wf_sqr_alg7 : (Instr.sqr 1 0 7).wellFormed = false := by decide
theorem test_wf_mul_alg2 : (Instr.mul 2 0 1 2).wellFormed = true := by decide

/-! ### Words written out from R110, R112 and R118: OPC, S, A, B, C, D, E, F, G, RSV -/

theorem test_decode_control :
    decode 0b000000_0_000_000_000_000_000_000_000_0000 = .ok .nop ∧
    decode 0b000001_0_000_000_000_000_000_000_000_0000 = .ok .clrf := by decide

theorem test_decode_adder :
    decode 0b001000_1_101_000_000_000_010_000_000_0000 = .ok (.incd .signed 5 2) ∧
    decode 0b001001_0_110_000_000_000_001_000_000_0000 = .ok (.decd .unsigned 6 1) ∧
    decode 0b001010_0_011_100_000_000_000_000_000_0000 = .ok (.incs .unsigned 3 4) ∧
    decode 0b001011_1_111_001_000_000_000_000_000_0000 = .ok (.decs .signed 7 1) ∧
    decode 0b001100_1_100_000_000_000_000_000_000_0000 = .ok (.neg .signed 4) ∧
    decode 0b001101_0_001_010_000_000_011_100_101_0000 = .ok (.macd 1 2 3 4 5) := by decide

theorem test_decode_multiply :
    decode 0b010000_0_001_010_000_000_011_100_000_0000 = .ok (.mulp 1 2 3 4) ∧
    decode 0b010001_0_001_010_000_000_011_100_101_0000 = .ok (.mulpa 1 2 3 4 5) ∧
    decode 0b010010_0_110_000_000_000_011_100_101_0000 = .ok (.muld 6 3 4 5) ∧
    decode 0b010011_0_111_101_011_000_001_000_000_0000 = .ok (.mul 7 5 3 1) ∧
    decode 0b010100_0_101_110_000_000_010_000_000_0000 = .ok (.sqr 5 6 2) := by decide

theorem test_decode_divide :
    decode 0b011000_0_001_010_000_000_011_100_101_0000 = .ok (.divp 1 2 3 4 5) ∧
    decode 0b011001_0_110_000_000_000_011_101_000_0000 = .ok (.divd 6 3 5) ∧
    decode 0b011010_0_110_000_000_000_011_101_000_0000 = .ok (.remd 6 3 5) ∧
    decode 0b011011_0_001_010_011_100_000_000_000_0000 = .ok (.ldiv 1 2 3 4) := by decide

/-- The vectors E01 to E07: rejected words and their codes. -/
theorem test_decode_rejects :
    decode 0x08000000 = .error .illegalOpcode ∧ decode 0xFC000000 = .error .illegalOpcode ∧
    decode 0x00000001 = .error .reservedField ∧ decode 0x42080980 = .error .reservedField ∧
    decode 0x00400000 = .error .reservedField ∧ decode 0x20100400 = .error .reservedField ∧
    decode 0x4C810C00 = .error .reservedField := by decide

theorem test_decode_table_word : decodeTableWord 32 0x6C982000 = some (.ldiv 2 3 0 1) := by decide

/-! ### One step a vector (95_test_vectors.md L2; R155 and R156 for NOP and CLRF) -/

/-- R155, example. -/
theorem test_nop :
    (after { State.reset with ovf := true, sticky := true } 0x00000000).statusWord = 0x0000000E := by decide
/-- R156, example. -/
theorem test_clrf :
    (after { State.reset with ovf := true, sticky := true } 0x04000000).statusWord = 0x00000002 := by decide
/-- A04 -/
theorem test_incd_unsigned :
    (let t := after (mk (cells 0 [0xFF, 0xFF, 0xFF]) [0, 0xFF] [at0 0 3]) 0x20000400
     (digits t 0 3, (t.span 0).ext, flags t)) = ([0xFE, 0x00, 0x00], false, true, true, false, 0) := by decide
/-- A02 -/
theorem test_incd_signed :
    (let t := after (mk (cells 0 [0x7F]) [0, 1] [at0 0 1]) 0x22000400
     (digits t 0 1, (t.span 0).ext, flags t)) = ([0x80], true, true, true, false, 0) := by decide
/-- A09 -/
theorem test_decd_borrow :
    (let t := after (mk (cells 0 [0x00, 0x01]) [0, 1] [at0 0 2]) 0x24000400
     (digits t 0 2, (t.span 0).ext, flags t)) = ([0xFF, 0x00], false, false, false, false, 0) := by decide
/-- A11 -/
theorem test_decd_signed :
    (let t := after (mk (cells 0 [0x80]) [0, 1] [(0, 1, true)]) 0x26000400
     (digits t 0 1, (t.span 0).ext, flags t)) = ([0x7F], false, true, true, false, 0) := by decide
/-- A14 -/
theorem test_incs_negative_source :
    (let t := after (mk (cells 0 [0x05, 0x00] ++ cells 8 [0xFF]) [] [at0 0 2, (8, 1, true)]) 0x2A080000
     (digits t 0 2, (t.span 0).ext, digits t 8 1, flags t)) = ([0x04, 0x00], false, [0xFF], false, false, false, 0) := by
  decide
/-- A15 -/
theorem test_incs_longer_source :
    (let t := after (mk (cells 0 [0x01] ++ cells 8 [0x00, 0x01]) [] [at0 0 1, at0 8 2]) 0x28080000
     (digits t 0 1, flags t)) = ([0x01], true, true, false, 0) := by decide
/-- A21 -/
theorem test_decs_signed :
    (let t := after (mk (cells 0 [0x00] ++ cells 8 [0x80]) [] [at0 0 1, (8, 1, true)]) 0x2E080000
     (digits t 0 1, (t.span 0).ext, flags t)) = ([0x80], true, true, true, false, 0) := by decide
/-- A20 -/
theorem test_decs_borrow :
    (let t := after (mk (cells 0 [0x01] ++ cells 8 [0x02]) [] [at0 0 1, at0 8 1]) 0x2C080000
     (digits t 0 1, digits t 8 1, (t.span 0).ext, flags t)) = ([0xFF], [0x02], false, true, true, false, 0) := by decide
/-- A25 -/
theorem test_neg_most_negative :
    (let t := after (mk (cells 0 [0x80]) [] [(0, 1, true)]) 0x32000000
     (digits t 0 1, (t.span 0).ext, flags t)) = ([0x80], true, true, true, false, 0) := by decide
/-- A29 -/
theorem test_neg_unsigned_magnitude :
    (let t := after (mk (cells 0 [0x00, 0x80]) [] [(0, 2, true)]) 0x30000000
     (digits t 0 2, (t.span 0).ext, flags t)) = ([0x00, 0x80], false, false, false, false, 0) := by decide
/-- A30 -/
theorem test_macd :
    (let t := after (mk (cells 0 [0x10, 0x00] ++ cells 8 [0xFF, 0xFF]) [0, 0, 0xFF, 1] [at0 0 2, at0 8 2]) 0x340809C0
     (digits t 0 2, t.readDr 4, flags t)) = ([0x12, 0xFF], 0xFE, true, true, false, 0) := by decide
/-- A33: the carry goes to the multiplier's register. -/
theorem test_macd_carry_to_input :
    (let t := after (mk (cells 0 [0xFF, 0xFF] ++ cells 8 [0xFF, 0xFF]) [0, 0, 0xFF, 0xFF] [at0 0 2, at0 8 2]) 0x340809A0
     (digits t 0 2, t.readDr 2, flags t)) = ([0xFF, 0xFF], 0xFF, true, true, false, 0) := by decide
/-- M01, W = 64. -/
theorem test_mulp_w64 :
    (let t := after (wide .w64 (mk [] [0, 0, 0xFFFFFFFFFFFFFFFF, 0xFFFFFFFFFFFFFFFF] [])) 0x40080980
     (t.readDr 0, t.readDr 1, t.ovf)) = (1, 0xFFFFFFFFFFFFFFFE, false) := by decide
/-- M04: the outputs are the inputs. -/
theorem test_mulp_in_place :
    (let t := after (mk [] [0, 0, 0x12, 0x34] []) 0x40980980
     (t.readDr 2, t.readDr 3, flags t)) = (0xA8, 0x03, false, false, false, 0) := by decide
/-- M05 -/
theorem test_mulpa :
    (let t := after (mk [] [0, 0, 0xFF, 0xFF, 0xFF] []) 0x440809C0
     (t.readDr 0, t.readDr 1, flags t)) = (0x00, 0xFF, false, false, false, 0) := by decide
/-- M06, W = 16. -/
theorem test_mulpa_w16 :
    (let t := after (wide .w16 (mk [] [0, 0, 0x1234, 0x5678, 0xFFFF] [])) 0x440809C0
     (t.readDr 0, t.readDr 1, t.ovf)) = (0x005F, 0x0627, false) := by decide
/-- M09 -/
theorem test_muld :
    (let t := after (mk (cells 0 [0x34, 0x12]) [0, 0x10, 0x05] [at0 0 2]) 0x48000530
     (digits t 0 2, t.readDr 3, flags t)) = ([0x45, 0x23], 0x01, true, true, false, 0) := by decide
/-- E22: SPAN_RANGE is reported before EXT. -/
theorem test_muld_check_order :
    (let t := after (mk [] [0, 1, 1] [(255, 2, true)]) 0x48000530
     (flags t, t.errCmd, (t.span 0).ext)) = ((false, false, true, 3), 0x48000530, true) := by decide
/-- M11 -/
theorem test_mul :
    (let t := after (mk (cells 0 [0xFF, 0xFF] ++ cells 8 [0xFF] ++ cells 16 [0xAA, 0xAA, 0xAA]) []
        [at0 0 2, at0 8 1, at0 16 3]) 0x4C810000
     (digits t 16 3, flags t)) = ([0x01, 0xFF, 0xFE], false, false, false, 0) := by decide
/-- E21: COUNT is reported before OVERLAP. -/
theorem test_mul_check_order :
    (let t := after (mk (cells 0 [1, 1] ++ cells 8 [1, 1]) [] [at0 0 2, at0 8 2, at0 0 3]) 0x4C810000
     (digits t 0 2, flags t, t.errCmd)) = ([1, 1], (false, false, true, 5), 0x4C810000) := by decide
/-- M24 -/
theorem test_sqr :
    (let t := after (mk (cells 0 [0x03, 0x01]) [] [at0 0 2, at0 8 4]) 0x50400000
     (digits t 8 4, flags t)) = ([0x09, 0x06, 0x01, 0x00], false, false, false, 0) := by decide
/-- D02 -/
theorem test_divp_wraps :
    (let t := after (mk [] [0, 0, 5, 0, 3] []) 0x600809C0
     (t.readDr 0, t.readDr 1, flags t)) = (0xAA, 0x02, true, true, false, 0) := by decide
/-- D03 -/
theorem test_divp_by_zero :
    (let t := after (mk [] [7, 7, 3, 9, 0] []) 0x600809C0
     (t.readDr 0, t.readDr 1, flags t)) = (0x00, 0x09, true, true, false, 0) := by decide
/-- D08 -/
theorem test_divd_by_zero :
    (let t := after (mk (cells 0 [0x00, 0x01]) [0, 0, 7] [at0 0 2]) 0x64000500
     (digits t 0 2, t.readDr 2, flags t)) = ([0x00, 0x00], 0x00, true, true, false, 0) := by decide
/-- D09 -/
theorem test_divd :
    (let t := after (mk (cells 0 [0x39, 0x30]) [0, 0x0A] [at0 0 2]) 0x64000500
     (digits t 0 2, t.readDr 2, flags t)) = ([0xD2, 0x04], 0x05, false, false, false, 0) := by decide
/-- D12 -/
theorem test_remd :
    (let t := after (mk (cells 0 [0x00, 0x01]) [0, 3] [at0 0 2]) 0x68000500
     (digits t 0 2, t.readDr 2, flags t)) = ([0x00, 0x01], 0x01, false, false, false, 0) := by decide
/-- D13 -/
theorem test_remd_by_zero :
    (let t := after (mk (cells 0 [0x34, 0x12]) [] [at0 0 2]) 0x68000500
     (digits t 0 2, t.readDr 2, flags t)) = ([0x34, 0x12], 0x34, true, true, false, 0) := by decide
/-- D21 -/
theorem test_ldiv :
    (let t := after (mk (cells 0 [0x8E, 0xA7, 0xD9] ++ cells 8 [0xE5, 0x81]) []
        [at0 0 3, at0 8 2, at0 16 2, at0 24 2]) 0x6C982000
     (digits t 16 2, digits t 24 2, flags t)) = ([0xAC, 0x01], [0xB2, 0x7C], false, false, false, 0) := by decide
/-- D16 -/
theorem test_ldiv_by_zero :
    (let t := after (mk (cells 0 [0x34, 0x12, 0xAB] ++ cells 8 [0, 0] ++ cells 16 [0x55, 0x55] ++ cells 24 [0x55, 0x55]) []
        [at0 0 3, at0 8 2, at0 16 2, at0 24 2]) 0x6C982000
     (digits t 16 2, digits t 24 2, flags t)) = ([0, 0], [0x34, 0x12], true, true, false, 0) := by decide

/-! ### The engine and the host port -/

/-- S01: a command issued while the error is latched is discarded, and sets DONE. -/
theorem test_discard :
    (let t := stepped { mk (cells 0 [0xFF]) [0, 1] [at0 0 1] with
        err := true, errCode := .count, errCmd := 0x20400400, inFlight := some 0x20000400 }
     (digits t 0 1, t.errCmd, t.statusWord)) = ([0xFF], 0x20400400, 0x00000512) := by decide

/-- R304, R305, S01: ERRCLR. -/
theorem test_errclr :
    (let t := { State.reset with err := true, errCode := .count, errCmd := 0x20400400, done := true, ovf := true }
     let u := t.serve (.write 0x010 0x00000102)
     (u.statusWord, u.ctrlWord, u.errCmd)) = (0x00000006, 0x00000002, 0) := by decide

/-- R34, R48, R90, W = 64: HI and LO of DR1, at 0x10C and 0x108, the two low address bits ignored. -/
theorem test_port_dr_w64 :
    (let s := wide .w64 (mk [] [0, 0xFFFFFFFFFFFFFFFF] [])
     let t := (s.portWrite (portReg s.cfg 0x10C) 0x89ABCDEF).portWrite (portReg s.cfg 0x10A) 0x01234567
     t.readDr 1) = 0x89ABCDEF01234567 := by decide

/-- R41, R42, R48: the constants of an 8-bit block of 256 digits. -/
theorem test_port_constants :
    (State.reset.portRead (portReg State.reset.cfg 0x000), State.reset.portRead (portReg State.reset.cfg 0x004),
      State.reset.portRead (portReg State.reset.cfg 0x008), State.reset.portRead (portReg State.reset.cfg 0x00C)) =
      (0x554D0108, 0x00000100, 0x00000010, 0x00000808) := by decide

/-- R340: reset while a command runs abandons it. -/
theorem test_reset_in_flight :
    (let t := stepped { State.reset with
        inFlight := some 0, sticky := true, ieErr := true, events := [{ op := .reset, early := true }] }
     (t.inFlight, t.statusWord, t.ctrlWord)) = (none, 0, 0) := by decide

/-- R125: a NOP sent by the host is accepted and run. -/
theorem test_host_program :
    (match State.drain 2 (State.reset.withHost (hostCmd State.reset.cfg 0x00000000)) with
      | .next t => t.statusWord
      | .fault _ => 0
      | .refused _ => 0) = 0x00000002 := by decide

/-- R123, its own examples. -/
theorem test_assembly :
    assembly (.incd .signed 0 1) = "INCD.S sp0, dr1" ∧ assembly (.macd 0 1 2 3 4) = "MACD sp0, sp1, dr2, dr3, dr4" ∧
    assembly (.mul 2 0 1 2) = "MUL.K sp2, sp0, sp1" ∧ assembly (.ldiv 2 3 0 1) = "LDIV sp2, sp3, sp0, sp1" := by decide

/-- R256, trace of D21: the quotient's digits, the remainder, and two corrections at digit 0. -/
theorem test_longDivide_trace : longDivide 8 0xD9A78E 3 0x81E5 2 = ([0xAC, 0x01], 0x7CB2, [2, 0]) := by decide

/-- R255, trace of D09. -/
theorem test_digitDivide_trace : digitDivide 256 10 0 [0x30, 0x39] = ([0x04, 0xD2], 5) := by decide

/-! ### Witnesses: the hypotheses of the statements can be met, each clause at the edge of its range

`depth` is 256 here: a span of 1 digit at 255 fits, one of 2 digits at 255 does not, an empty one at 256 fits. -/

theorem meets_of {p q : Span} (h : p.disjoint q = false) : p.Meets q := by
  by_contra hc
  rw [(Span.disjoint_iff p q).2 hc] at h
  cases h

theorem apart_of {p q : Span} (h : p.disjoint q = true) : ¬ p.Meets q := (Span.disjoint_iff p q).1 h

theorem mayShare_of {s : State} {j k : SpanReg} (h : (s.span j).shareable (s.span k) = true) : s.MayShare j k :=
  (Span.shareable_iff _ _).1 h

theorem notShare_of {s : State} {j k : SpanReg} (h : (s.span j).shareable (s.span k) = false) : ¬ s.MayShare j k :=
  fun hc => by rw [(Span.shareable_iff _ _).2 hc] at h; cases h

/-! #### Encoding -/

theorem witness_DecodeOfEncode : (Instr.mul 7 7 7 2).wellFormed = true ∧ (Instr.sqr 7 7 0).wellFormed = true := by decide

theorem witness_EncodeOfDecode : decode 0x6C982000 = .ok (.ldiv 2 3 0 1) := by decide

theorem witness_DecodeRejectsByName :
    (Word.opc 0x08000000 = 0x02 ∧ Word.opc 0xFC000000 = 0x3F ∧ Word.opc 0x1C000000 = 0x07 ∧ Word.opc 0x70000000 = 0x1C) ∧
    (Word.rsv 0x6C982001 = 1 ∧ Word.rsv 0x0000000F = 15) ∧
    (Word.sBit 0x36000000 = 1 ∧ Word.opc 0x36000000 = 0x0D) ∧
    ((Word.fE 0x4C810C00).val = 3 ∧ Word.opc 0x4C810C00 = 0x13 ∧ (Word.fE 0x50401C00).val = 7 ∧ Word.opc 0x50401C00 = 0x14) := by
  decide

/-- No command has the word 1, since RSV is 0 in all of them. -/
theorem witness_DecodeRejectsByName_noCommand : Word.opc 1 = 0 ∧ ∀ i : Instr, i.wellFormed = true → encode i ≠ 1 := by
  refine ⟨by decide, fun i _ h => ?_⟩
  have : Word.rsv (encode i) = 0 := by
    cases i
    case nop => exact Laws.EncodedOpcode.nop.2
    case clrf => exact Laws.EncodedOpcode.clrf.2
    case incd => exact (Laws.EncodedOpcode.incd ..).2
    case decd => exact (Laws.EncodedOpcode.decd ..).2
    case incs => exact (Laws.EncodedOpcode.incs ..).2
    case decs => exact (Laws.EncodedOpcode.decs ..).2
    case neg => exact (Laws.EncodedOpcode.neg ..).2
    case macd => exact (Laws.EncodedOpcode.macd ..).2
    case mulp => exact (Laws.EncodedOpcode.mulp ..).2
    case mulpa => exact (Laws.EncodedOpcode.mulpa ..).2
    case muld => exact (Laws.EncodedOpcode.muld ..).2
    case mul => exact (Laws.EncodedOpcode.mul ..).2
    case sqr => exact (Laws.EncodedOpcode.sqr ..).2
    case divp => exact (Laws.EncodedOpcode.divp ..).2
    case divd => exact (Laws.EncodedOpcode.divd ..).2
    case remd => exact (Laws.EncodedOpcode.remd ..).2
    case ldiv => exact (Laws.EncodedOpcode.ldiv ..).2
  rw [h] at this
  exact absurd this (by decide)

/-! #### Control, adder -/

/-- A command in flight with the error latched, and an event that is late, or early and stalls. -/
def latched (c : Word) (ev : HostEvent) : State :=
  { State.reset with inFlight := some c, err := true, errCode := .count, events := [ev] }

theorem witness_NopOnlyEnds :
    (Word.opc 0x00000000 = 0 ∧ Word.opc 0x03FFFFFF = 0) ∧
    (let s := latched 0x00000000 { op := .reset, early := false }
     s.inFlight = some 0x00000000 ∧ s.err = true ∧ s.EngineNext) := by
  exact ⟨by decide, rfl, rfl, fun ev h => by cases h; exact .inl rfl⟩

theorem witness_ClrfClearsOverflowFlags :
    (Word.opc 0x04000000 = 1 ∧ Word.opc 0x07FFFFFF = 1) ∧
    (let s := latched 0x04000000 { op := .read 0x01C, early := true }
     s.inFlight = some 0x04000000 ∧ s.err = true ∧ s.EngineNext) := by
  exact ⟨by decide, rfl, rfl, fun ev h => by cases h; exact .inr (by decide)⟩

/-- The clauses of INCD, DECD and NEG, which have the destination span alone. -/
theorem witness_destination :
    (¬ (mk [] [] [at0 255 2]).Fits 0) ∧
    ((mk [] [] [at0 256 0]).Fits 0 ∧ (mk [] [] [at0 256 0]).count 0 = 0) ∧
    ((mk [] [] [at0 255 1]).Fits 0 ∧ 1 ≤ (mk [] [] [at0 255 1]).count 0) ∧
    ((mk [] [] [at0 0 256]).Fits 0 ∧ 1 ≤ (mk [] [] [at0 0 256]).count 0) := by decide

theorem witness_IncdAddsDigitToSpan :
    (¬ (mk [] [] [at0 255 2]).Fits 0) ∧
    ((mk [] [] [at0 256 0]).Fits 0 ∧ (mk [] [] [at0 256 0]).count 0 = 0) ∧
    ((mk [] [] [at0 255 1]).Fits 0 ∧ 1 ≤ (mk [] [] [at0 255 1]).count 0) :=
  ⟨witness_destination.1, witness_destination.2.1, witness_destination.2.2.1⟩

theorem witness_DecdSubtractsDigitFromSpan :
    (¬ (mk [] [] [at0 255 2]).Fits 0) ∧
    ((mk [] [] [at0 256 0]).Fits 0 ∧ (mk [] [] [at0 256 0]).count 0 = 0) ∧
    ((mk [] [] [at0 0 256]).Fits 0 ∧ 1 ≤ (mk [] [] [at0 0 256]).count 0) :=
  ⟨witness_destination.1, witness_destination.2.1, witness_destination.2.2.2⟩

theorem witness_NegNegatesSpan :
    (¬ (mk [] [] [at0 255 2]).Fits 0) ∧
    ((mk [] [] [at0 256 0]).Fits 0 ∧ (mk [] [] [at0 256 0]).count 0 = 0) ∧
    ((mk [] [] [at0 255 1]).Fits 0 ∧ 1 ≤ (mk [] [] [at0 255 1]).count 0) :=
  ⟨witness_destination.1, witness_destination.2.1, witness_destination.2.2.1⟩

/-- The clauses of INCS: one span past the end, an empty destination, a partial overlap, regions that touch, one BASE. -/
theorem witness_IncsAddsSpanToSpan :
    (¬ ((mk [] [] [at0 0 1, at0 255 2]).Fits 0 ∧ (mk [] [] [at0 0 1, at0 255 2]).Fits 1)) ∧
    (let s := mk [] [] [at0 8 0, at0 8 2]
     s.Fits 0 ∧ s.Fits 1 ∧ s.count 0 = 0) ∧
    (let s := mk [] [] [at0 0 3, at0 2 2]
     s.Fits 0 ∧ s.Fits 1 ∧ 1 ≤ s.count 0 ∧ ¬ s.MayShare 1 0) ∧
    (let s := mk [] [] [at0 0 2, at0 2 2]
     s.Fits 0 ∧ s.Fits 1 ∧ 1 ≤ s.count 0 ∧ s.MayShare 1 0) ∧
    (let s := mk [] [] [at0 0 2, at0 0 4]
     s.Fits 0 ∧ s.Fits 1 ∧ 1 ≤ s.count 0 ∧ s.MayShare 1 0) :=
  ⟨by decide, by decide, ⟨by decide, by decide, by decide, notShare_of (by decide)⟩,
    ⟨by decide, by decide, by decide, mayShare_of (by decide)⟩, ⟨by decide, by decide, by decide, mayShare_of (by decide)⟩⟩

theorem witness_DecsSubtractsSpanFromSpan :
    (¬ ((mk [] [] [at0 255 2, at0 0 1]).Fits 0 ∧ (mk [] [] [at0 255 2, at0 0 1]).Fits 1)) ∧
    (let s := mk [] [] [at0 256 0, at0 8 2]
     s.Fits 0 ∧ s.Fits 1 ∧ s.count 0 = 0) ∧
    (let s := mk [] [] [at0 1 3, at0 0 2]
     s.Fits 0 ∧ s.Fits 1 ∧ 1 ≤ s.count 0 ∧ ¬ s.MayShare 1 0) ∧
    (let s := mk [] [] [at0 4 2, at0 4 0]
     s.Fits 0 ∧ s.Fits 1 ∧ 1 ≤ s.count 0 ∧ s.MayShare 1 0) ∧
    (let s := mk [] [] [at0 0 2]
     s.Fits 0 ∧ 1 ≤ s.count 0 ∧ s.MayShare 0 0) :=
  ⟨by decide, by decide, ⟨by decide, by decide, by decide, notShare_of (by decide)⟩,
    ⟨by decide, by decide, by decide, mayShare_of (by decide)⟩, ⟨by decide, by decide, mayShare_of (by decide)⟩⟩

theorem witness_MacdMultipliesAndAccumulates :
    (¬ ((mk [] [] [at0 0 1, at0 255 2]).Fits 0 ∧ (mk [] [] [at0 0 1, at0 255 2]).Fits 1)) ∧
    (let s := mk [] [] [at0 0 1, at0 8 2]
     s.Fits 0 ∧ s.Fits 1 ∧ ¬ (1 ≤ s.count 0 ∧ s.count 1 ≤ s.count 0)) ∧
    (let s := mk [] [] [at0 0 2, (8, 2, true)]
     s.Fits 0 ∧ s.Fits 1 ∧ 1 ≤ s.count 0 ∧ s.count 1 ≤ s.count 0 ∧ ¬ (s.extBit 0 = false ∧ s.extBit 1 = false)) ∧
    (let s := mk [] [] [at0 0 3, at0 2 1]
     s.Fits 0 ∧ s.Fits 1 ∧ 1 ≤ s.count 0 ∧ s.count 1 ≤ s.count 0 ∧ s.extBit 0 = false ∧ s.extBit 1 = false ∧
       ¬ s.MayShare 1 0) ∧
    (let s := mk [] [] [at0 0 2, at0 2 2]
     s.Fits 0 ∧ s.Fits 1 ∧ 1 ≤ s.count 0 ∧ s.count 1 ≤ s.count 0 ∧ s.extBit 0 = false ∧ s.extBit 1 = false ∧
       s.MayShare 1 0) :=
  ⟨by decide, by decide, by decide,
    ⟨by decide, by decide, by decide, by decide, by decide, by decide, notShare_of (by decide)⟩,
    ⟨by decide, by decide, by decide, by decide, by decide, by decide, mayShare_of (by decide)⟩⟩

/-! #### Multiply -/

theorem witness_MulpGivesExactPair : ((0 : DigitReg) = 0) ∧ ((0 : DigitReg) ≠ 7) := by decide

theorem witness_MulpaGivesExactPair : ((7 : DigitReg) = 7) ∧ ((7 : DigitReg) ≠ 0) := by decide

/-- The clauses of MULD, DIVD and REMD, which have one magnitude span. -/
theorem witness_magnitude :
    (¬ (mk [] [] [at0 255 2]).Fits 0) ∧
    ((mk [] [] [at0 256 0]).Fits 0 ∧ (mk [] [] [at0 256 0]).count 0 = 0) ∧
    (let s := mk [] [] [(255, 1, true)]
     s.Fits 0 ∧ 1 ≤ s.count 0 ∧ s.extBit 0 = true) ∧
    (let s := mk (cells 255 [7]) [0, 3] [at0 255 1]
     s.Fits 0 ∧ 1 ≤ s.count 0 ∧ s.extBit 0 = false ∧ s.readDr 0 = 0 ∧ s.readDr 1 ≠ 0) := by decide

theorem witness_MuldMultipliesSpanByDigit :
    (let s := mk (cells 255 [7]) [0, 3] [at0 255 1]
     s.Fits 0 ∧ 1 ≤ s.count 0 ∧ s.extBit 0 = false) :=
  ⟨witness_magnitude.2.2.2.1, witness_magnitude.2.2.2.2.1, witness_magnitude.2.2.2.2.2.1⟩

theorem witness_MulWritesFullProduct :
    (let s := mk [] [] [at0 0 1, at0 8 1, at0 255 2]
     ¬ (s.Fits 2 ∧ s.Fits 0 ∧ s.Fits 1)) ∧
    (let s := mk [] [] [at0 0 1, at0 8 1, at0 16 3]
     (s.Fits 2 ∧ s.Fits 0 ∧ s.Fits 1) ∧ ¬ (1 ≤ s.count 0 ∧ 1 ≤ s.count 1 ∧ s.count 2 = s.count 0 + s.count 1)) ∧
    (let s := mk [] [] [at0 0 1, (8, 1, true), at0 16 2]
     (s.Fits 2 ∧ s.Fits 0 ∧ s.Fits 1) ∧ (1 ≤ s.count 0 ∧ 1 ≤ s.count 1 ∧ s.count 2 = s.count 0 + s.count 1) ∧
       ¬ (s.extBit 0 = false ∧ s.extBit 1 = false)) ∧
    (let s := mk [] [] [at0 0 1, at0 8 1, at0 7 2]
     (s.Fits 2 ∧ s.Fits 0 ∧ s.Fits 1) ∧ (1 ≤ s.count 0 ∧ 1 ≤ s.count 1 ∧ s.count 2 = s.count 0 + s.count 1) ∧
       (s.extBit 0 = false ∧ s.extBit 1 = false) ∧ ¬ (¬ s.Overlaps 2 0 ∧ ¬ s.Overlaps 2 1)) ∧
    (let s := mk [] [] [at0 0 1, at0 8 1, at0 6 2]
     (s.Fits 2 ∧ s.Fits 0 ∧ s.Fits 1) ∧ (1 ≤ s.count 0 ∧ 1 ≤ s.count 1 ∧ s.count 2 = s.count 0 + s.count 1) ∧
       (s.extBit 0 = false ∧ s.extBit 1 = false) ∧ ¬ s.Overlaps 2 0 ∧ ¬ s.Overlaps 2 1) :=
  ⟨by decide, by decide, by decide, ⟨by decide, by decide, by decide, fun h => h.2 (meets_of (by decide))⟩,
    ⟨by decide, by decide, by decide, apart_of (by decide), apart_of (by decide)⟩⟩

theorem witness_SqrWritesFullSquare :
    (let s := mk [] [] [at0 0 1, at0 255 2]
     ¬ (s.Fits 1 ∧ s.Fits 0)) ∧
    (let s := mk [] [] [at0 0 2, at0 16 3]
     (s.Fits 1 ∧ s.Fits 0) ∧ ¬ (1 ≤ s.count 0 ∧ s.count 1 = 2 * s.count 0)) ∧
    (let s := mk [] [] [(0, 1, true), at0 16 2]
     (s.Fits 1 ∧ s.Fits 0) ∧ (1 ≤ s.count 0 ∧ s.count 1 = 2 * s.count 0) ∧ s.extBit 0 = true) ∧
    (let s := mk [] [] [at0 1 1, at0 0 2]
     (s.Fits 1 ∧ s.Fits 0) ∧ (1 ≤ s.count 0 ∧ s.count 1 = 2 * s.count 0) ∧ s.extBit 0 = false ∧ s.Overlaps 1 0) ∧
    (let s := mk [] [] [at0 2 1, at0 0 2]
     (s.Fits 1 ∧ s.Fits 0) ∧ (1 ≤ s.count 0 ∧ s.count 1 = 2 * s.count 0) ∧ s.extBit 0 = false ∧ ¬ s.Overlaps 1 0) :=
  ⟨by decide, by decide, by decide, ⟨by decide, by decide, by decide, meets_of (by decide)⟩,
    ⟨by decide, by decide, by decide, apart_of (by decide)⟩⟩

/-! #### Divide -/

theorem witness_DivpDividesPairByDigit :
    ((0 : DigitReg) = 0) ∧ ((0 : DigitReg) ≠ 1 ∧ (mk [] [] []).readDr 4 = 0) ∧
    ((0 : DigitReg) ≠ 1 ∧ (mk [] [0, 0, 5, 0, 255] []).readDr 4 ≠ 0) := by decide

theorem witness_DivdDividesSpanByDigit :
    (let s := mk (cells 255 [7]) [0, 3] [at0 255 1]
     s.Fits 0 ∧ 1 ≤ s.count 0 ∧ s.extBit 0 = false ∧ s.readDr 0 = 0 ∧ s.readDr 1 ≠ 0) := witness_magnitude.2.2.2

theorem witness_RemdGivesRemainderOnly :
    (let s := mk (cells 255 [7]) [0, 3] [at0 255 1]
     s.Fits 0 ∧ 1 ≤ s.count 0 ∧ s.extBit 0 = false ∧ s.readDr 0 = 0 ∧ s.readDr 1 ≠ 0) := witness_magnitude.2.2.2

/-- The spans of LDIV: dividend, divisor, quotient and remainder, of n, m, q and r digits, with the divisor's digits. -/
def ldivState (n m q r : Nat) (v : List Nat) (base : Nat) (e : Bool) : State :=
  mk (cells 0 [1, 2, 3] ++ cells 8 v) [] [(0, n, e), at0 8 m, at0 16 q, at0 base r]

theorem witness_LdivDividesSpanBySpan :
    (let s := ldivState 3 2 2 2 [1, 1] 255 false
     ¬ (s.Fits 2 ∧ s.Fits 3 ∧ s.Fits 0 ∧ s.Fits 1)) ∧
    (let s := ldivState 2 2 1 2 [1, 1] 24 false
     (s.Fits 2 ∧ s.Fits 3 ∧ s.Fits 0 ∧ s.Fits 1) ∧ s.count 0 ≤ s.count 1) ∧
    (let s := ldivState 3 0 4 0 [] 24 false
     (s.Fits 2 ∧ s.Fits 3 ∧ s.Fits 0 ∧ s.Fits 1) ∧ s.count 1 < s.count 0 ∧
       ¬ (1 ≤ s.count 1 ∧ s.count 2 = s.count 0 - s.count 1 + 1 ∧ s.count 3 = s.count 1)) ∧
    (let s := ldivState 3 2 2 2 [1, 1] 24 true
     (s.Fits 2 ∧ s.Fits 3 ∧ s.Fits 0 ∧ s.Fits 1) ∧ s.count 1 < s.count 0 ∧
       (1 ≤ s.count 1 ∧ s.count 2 = s.count 0 - s.count 1 + 1 ∧ s.count 3 = s.count 1) ∧
       ¬ (s.extBit 0 = false ∧ s.extBit 1 = false)) ∧
    (let s := ldivState 3 2 2 2 [1, 1] 17 false
     s.count 1 < s.count 0 ∧ s.count 2 = s.count 0 - s.count 1 + 1 ∧ s.Overlaps 2 3) ∧
    (let s := ldivState 3 2 2 2 [5, 0] 24 false
     (s.Fits 2 ∧ s.Fits 3 ∧ s.Fits 0 ∧ s.Fits 1) ∧ s.count 1 < s.count 0 ∧
       (1 ≤ s.count 1 ∧ s.count 2 = s.count 0 - s.count 1 + 1 ∧ s.count 3 = s.count 1) ∧
       (s.extBit 0 = false ∧ s.extBit 1 = false) ∧
       (¬ s.Overlaps 2 3 ∧ ¬ s.Overlaps 2 0 ∧ ¬ s.Overlaps 2 1 ∧ ¬ s.Overlaps 3 0 ∧ ¬ s.Overlaps 3 1) ∧
       s.valuOf 1 ≠ 0 ∧ s.readDigit 9 = 0) ∧
    (let s := ldivState 3 2 2 2 [0, 0] 18 false
     (s.Fits 2 ∧ s.Fits 3 ∧ s.Fits 0 ∧ s.Fits 1) ∧ s.count 1 < s.count 0 ∧
       (1 ≤ s.count 1 ∧ s.count 2 = s.count 0 - s.count 1 + 1 ∧ s.count 3 = s.count 1) ∧
       (s.extBit 0 = false ∧ s.extBit 1 = false) ∧
       (¬ s.Overlaps 2 3 ∧ ¬ s.Overlaps 2 0 ∧ ¬ s.Overlaps 2 1 ∧ ¬ s.Overlaps 3 0 ∧ ¬ s.Overlaps 3 1) ∧
       s.valuOf 1 = 0) ∧
    (let s := ldivState 3 2 2 2 [0, 1] 18 false
     (s.Fits 2 ∧ s.Fits 3 ∧ s.Fits 0 ∧ s.Fits 1) ∧ s.count 1 < s.count 0 ∧
       (1 ≤ s.count 1 ∧ s.count 2 = s.count 0 - s.count 1 + 1 ∧ s.count 3 = s.count 1) ∧
       (s.extBit 0 = false ∧ s.extBit 1 = false) ∧
       (¬ s.Overlaps 2 3 ∧ ¬ s.Overlaps 2 0 ∧ ¬ s.Overlaps 2 1 ∧ ¬ s.Overlaps 3 0 ∧ ¬ s.Overlaps 3 1) ∧
       s.valuOf 1 ≠ 0 ∧ s.readDigit 9 ≠ 0) :=
  ⟨by decide, by decide, by decide, by decide, ⟨by decide, by decide, meets_of (by decide)⟩,
    ⟨by decide, by decide, by decide, by decide,
      ⟨apart_of (by decide), apart_of (by decide), apart_of (by decide), apart_of (by decide), apart_of (by decide)⟩,
      by decide, by decide⟩,
    ⟨by decide, by decide, by decide, by decide,
      ⟨apart_of (by decide), apart_of (by decide), apart_of (by decide), apart_of (by decide), apart_of (by decide)⟩,
      by decide⟩,
    ⟨by decide, by decide, by decide, by decide,
      ⟨apart_of (by decide), apart_of (by decide), apart_of (by decide), apart_of (by decide), apart_of (by decide)⟩,
      by decide, by decide⟩⟩

/-! #### Laws -/

/-- sp0 and sp1 of one digit, side by side, with EXT their top bit: -128 and 1. -/
def pairState : State := mk (cells 0 [0x80, 0x01]) [0, 0x7F] [(0, 1, true), at0 1 1]

theorem witness_OverflowIffResultInexact :
    pairState.Fits 0 ∧ 1 ≤ pairState.count 0 ∧ pairState.Fits 1 ∧ pairState.MayShare 1 0 ∧
    (∃ t, exec (.incd .signed 0 1) pairState = .next t) ∧ (∃ t, exec (.decd .signed 0 1) pairState = .next t) ∧
    (∃ t, exec (.neg .signed 0) pairState = .next t) ∧ (∃ t, exec (.incs .signed 0 1) pairState = .next t) ∧
    (∃ t, exec (.decs .signed 0 1) pairState = .next t) :=
  ⟨by decide, by decide, by decide, mayShare_of (by decide), ⟨_, rfl⟩, ⟨_, rfl⟩, ⟨_, rfl⟩, ⟨_, rfl⟩, ⟨_, rfl⟩⟩

/-- The signed clauses at `pairState`, the unsigned ones at a state of two unsigned digits. -/
theorem witness_OverflowLawsOfChain :
    (pairState.Fits 0 ∧ 1 ≤ pairState.count 0 ∧
      pairState.extBit 0 = (pairState.valuOf 0).testBit (pairState.count 0 * pairState.cfg.bits - 1) ∧
      (pairState.readDr 1).testBit (pairState.cfg.bits - 1) = false ∧ pairState.Fits 1 ∧ 1 ≤ pairState.count 1 ∧
      pairState.count 1 ≤ pairState.count 0 ∧
      pairState.extBit 1 = (pairState.valuOf 1).testBit (pairState.count 1 * pairState.cfg.bits - 1)) ∧
    (let s := mk (cells 0 [0xFF, 0xFF]) [] [at0 0 1, at0 1 1]
     s.Fits 0 ∧ 1 ≤ s.count 0 ∧ s.extBit 0 = false ∧ s.Fits 1 ∧ s.MayShare 1 0 ∧ s.extBit 1 = false ∧
       s.count 1 ≤ s.count 0) :=
  ⟨by decide, by decide, by decide, by decide, by decide, mayShare_of (by decide), by decide, by decide⟩

theorem witness_SubtractAfterAddRestores :
    (pairState.Fits 0 ∧ pairState.Fits 1 ∧ 1 ≤ pairState.count 0 ∧ (1 : SpanReg) ≠ 0 ∧ ¬ pairState.Overlaps 1 0 ∧
      pairState.extBit 0 = (pairState.valuOf 0).testBit (pairState.count 0 * pairState.cfg.bits - 1)) ∧
    (mk (cells 0 [0xFF, 0x01]) [] [at0 0 1, at0 1 1]).extBit 0 = false :=
  ⟨⟨by decide, by decide, by decide, by decide, apart_of (by decide), by decide⟩, by decide⟩

theorem witness_NegUnsignedGivesMagnitude :
    pairState.Fits 0 ∧ 1 ≤ pairState.count 0 ∧ pairState.extBit 0 = true ∧
    (pairState.valuOf 0).testBit (pairState.count 0 * pairState.cfg.bits - 1) = true := by decide

theorem witness_CheckPseudosRecheckRange :
    pairState.Fits 0 ∧ 1 ≤ pairState.count 0 ∧ pairState.readDr 0 = 0 ∧ pairState.valOf 0 < 0 ∧
    (mk (cells 0 [0x80]) [] [at0 0 1]).extBit 0 = false ∧
    (∃ t, exec (Pseudo.chk .unsigned 0 0).expand pairState = .next t) ∧
    (∃ t, exec (Pseudo.chk .signed 0 0).expand pairState = .next t) :=
  ⟨by decide, by decide, by decide, by decide, by decide, ⟨_, rfl⟩, ⟨_, rfl⟩⟩

theorem witness_QuotientTimesDivisorPlusRemainder :
    (let s := mk (cells 0 [7]) [0, 3] [at0 0 1]
     s.Fits 0 ∧ 1 ≤ s.count 0 ∧ s.extBit 0 = false ∧ s.readDr 1 ≠ 0 ∧ ∃ t, exec (.divd 0 1 2) s = .next t) ∧
    (let s := ldivState 3 2 2 2 [0, 1] 18 false
     s.valuOf 1 ≠ 0 ∧ ∃ t, exec (.ldiv 2 3 0 1) s = .next t ∧ t.err = false) :=
  ⟨⟨by decide, by decide, by decide, by decide, _, rfl⟩, by decide, _, rfl, by decide⟩

/-! #### Algorithms -/

theorem witness_MultiplyChainGivesDigitsAndCarry :
    (let s := mk (cells 0 [0xFF, 0xFF, 0xFF]) [] [at0 0 2, at0 2 1]
     (s.span 0).ext = false ∧ (s.span 1).ext = false ∧ (s.span 1).size ≤ (s.span 0).size ∧ 0xFF < s.cfg.radix) := by decide

theorem witness_MultiplierEngineGivesProduct : 2 ≤ 2 ∧ 3 < 2 ^ 2 ∧ 0 < 2 ^ 0 := by decide

theorem witness_SquarerEngineGivesSquare : 2 ≤ 256 ∧ 255 < 256 ^ 1 := by decide

theorem witness_DigitDividerGivesQuotient : 2 ≤ 256 ∧ 0 < 255 ∧ 255 < 256 ∧ ∀ d ∈ [255, 0], d < 256 := by decide

theorem witness_LongDivisionGivesQuotient :
    1 ≤ 8 ∧ 1 ≤ 1 ∧ 1 < 2 ∧ 0xFFFF < (2 ^ 8) ^ 2 ∧ 1 < (2 ^ 8) ^ 1 ∧ (2 ^ 8) ^ (1 - 1) ≤ 1 := by decide

/-! #### Whole-machine rules -/

theorem witness_CommandsWriteOnlyTheirDestinations : ∃ t, exec (.ldiv 2 3 0 1) (ldivState 3 2 2 2 [0, 1] 18 false) = .next t :=
  ⟨_, rfl⟩

/-- A second DMEM that differs outside the spans of DIVD sp0 only. -/
theorem witness_CommandsReadOnlyTheirSpans :
    let s := mk (cells 0 [7]) [0, 3] [at0 0 1]
    ∀ k ∈ (Instr.divd 0 1 2).destSpans ++ (Instr.divd 0 1 2).sourceSpans, ∀ a, (s.span k).covers a = true →
      ({ s with dmem := cells 0 [7, 9] } : State).readDigit a = s.readDigit a := by
  intro s k hk a ha
  simp only [Instr.destSpans, Instr.sourceSpans, List.append_nil, List.mem_singleton] at hk
  subst hk
  have : s.span 0 = { base := 0, count := 1, ext := false } := by decide
  rw [this, Span.covers_iff] at ha
  obtain rfl : a = 0 := by
    have h1 : (Span.mk 0 1 false).start = 0 := rfl
    have h2 : (Span.mk 0 1 false).size = 1 := rfl
    omega
  decide

theorem witness_StickyIsOrOfOverflows :
    ∃ t u, CompleteInTurn (mk (cells 0 [0xFF]) [0, 1] [at0 0 1]) [(.incd .unsigned 0 1, t), (.nop, u)] ∧ t.ovf = true :=
  ⟨_, _, ⟨rfl, by decide, rfl, by decide, trivial⟩, by decide⟩

/-! #### The engine and the host port -/

/-- A command in flight with the event `ev` next. -/
def running (c : Word) (ev : HostEvent) : State := { State.reset with inFlight := some c, events := [ev] }

theorem witness_StepRunsDecodedCommand :
    (let s := running 0x600809C0 { op := .write 0x018 0, early := true }
     s.inFlight = some 0x600809C0 ∧ s.err = false ∧ decode 0x600809C0 = .ok (.divp 0 1 2 3 4) ∧ s.EngineNext) :=
  ⟨rfl, rfl, by decide, fun ev h => by cases h; exact .inr (by decide)⟩

theorem witness_FetchWordRunsNext : decode 0x600809C0 = .ok (.divp 0 1 2 3 4) := by decide

theorem witness_StepAbortsUndecodableWord :
    (let s := running 0x08000000 { op := .reset, early := false }
     s.inFlight = some 0x08000000 ∧ s.err = false ∧ decode 0x08000000 = .error .illegalOpcode ∧ s.EngineNext) ∧
    decode 0x00000001 = .error .reservedField :=
  ⟨⟨rfl, rfl, by decide, fun ev h => by cases h; exact .inl rfl⟩, by decide⟩

theorem witness_StepDiscardsWhileErrorLatched :
    (let s := latched 0x08000000 { op := .write 0x010 0x100, early := true }
     s.inFlight = some 0x08000000 ∧ s.err = true ∧ s.EngineNext) :=
  ⟨rfl, rfl, fun ev h => by cases h; exact .inr (by decide)⟩

/-- The first and the last byte address of STATUS. -/
theorem witness_StatusReadSeesBusy :
    (let s := running 0 { op := .read 0x014, early := true }
     s.inFlight = some 0 ∧ s.events = { op := .read 0x014, early := true } :: [] ∧ s.cfg.umnBase ≤ 0x014 ∧
       (0x014 - s.cfg.umnBase) / 4 = 5 ∧ (0x017 - s.cfg.umnBase) / 4 = 5) := by decide

theorem witness_CmdWriteIsAccepted :
    (let s := { State.reset with events := [{ op := .write 0x018 5, early := false }] }
     s.inFlight = none ∧ s.events = { op := .write 0x018 5, early := false } :: [] ∧ s.cfg.umnBase ≤ 0x018 ∧
       (0x018 - s.cfg.umnBase) / 4 = 6 ∧ (0x01B - s.cfg.umnBase) / 4 = 6) := by decide

theorem witness_ResetInputResetsEverything :
    (let s := running 0 { op := .reset, early := true }
     s.events = { op := .reset, early := true } :: [] ∧ ({ op := .reset, early := true } : HostEvent).op = .reset) ∧
    { State.reset with events := [{ op := .reset, early := false }] }.inFlight = none := by decide

theorem witness_StepAlwaysAnswersNext : State.reset.inFlight = none ∧ State.reset.events = [] := by decide

theorem witness_AbortRecordIsNeverErased :
    (∃ t, Reaches { State.reset with everAborted := true } t) ∧ Reaches State.reset State.reset ∧ State.reset.safe ∧
    State.reset.err = false := ⟨⟨_, .refl⟩, .refl, rfl, rfl⟩

/-- A state with the last digit of DMEM and a DR at their greatest value, and a step from such a state. -/
theorem witness_StepKeepsInvariant :
    (mk (cells 255 [0xFF]) [0xFF] [at0 255 1]).Inv ∧
    ∃ t, step ((mk (cells 255 [0xFF]) [0xFF] [at0 255 1]).withFetchWord 32 0x20000000) = .next t :=
  ⟨{ params := by decide, dmemCanonical := by decide, dmemInRange := by decide, dmemDigits := by decide,
     drDigits := by decide, codeOfErr := by decide, errCmdOfErr := by decide, recordOfErr := by decide,
     stickyOfOvf := by decide, epochSpent := by decide }, _, rfl⟩

theorem witness_ResetMeetsInvariant :
    (Params.mk .w64 64 0).ok = true ∧ (Params.mk .w8 (2 ^ 28) 0x40000000).ok = true := by decide

theorem witness_CtrlAndStatusWrites :
    (0x2 : Word).getLsbD 1 = true ∧ (0xFFFFFFFD : Word).getLsbD 1 = false ∧ (0x100 : Word).getLsbD 8 = true ∧
    (0xFFFFFEFF : Word).getLsbD 8 = false := by decide

theorem witness_RegisterMapOfHostPort :
    3 < 4 ∧ 255 < State.reset.cfg.depth ∧ (0x140 ≤ 0xFFF ∧ 0xFFF ≤ 0xFFF) ∧ 0x1000 + 8 * State.reset.cfg.depth ≤ 0x1800 := by
  decide

theorem witness_ConstantAndReservedRegisters : State.reset.cfg.ok = true := by decide

theorem witness_HostReadHasNoSideEffect :
    (let s := { State.reset with events := [{ op := .read 0, early := true }] }
     s.cfg.umnBase ≤ 0 ∧ s.inFlight = none ∧ s.events = { op := .read 0, early := true } :: []) := by decide

theorem witness_StepServesHostWrite :
    (let s := { State.reset with events := [{ op := .write 0x010 3, early := true }] }
     s.inFlight = none ∧ s.events = { op := .write 0x010 3, early := true } :: [] ∧ s.cfg.umnBase ≤ 0x010) := by decide

/-- An early read of the words on both sides of STATUS, and an early write to STATUS itself. -/
theorem witness_HostAccessWaitsForCommand :
    (let s := running 0 { op := .read 0x013, early := true }
     s.cfg.umnBase ≤ 0x013 ∧ s.inFlight = some 0 ∧ s.events = { op := .read 0x013, early := true } :: [] ∧
       (0x013 - s.cfg.umnBase) / 4 ≠ 5 ∧ (0x018 - s.cfg.umnBase) / 4 ≠ 5) ∧
    (let s := running 0 { op := .write 0x014 2, early := true }
     s.cfg.umnBase ≤ 0x014 ∧ s.inFlight = some 0 ∧ s.events = { op := .write 0x014 2, early := true } :: []) := by decide

end Sys2Proof.Tests
end

section
/-! SUPPORT. Proofs of the statements about the state, the host port and the steps (10_state). -/

namespace Sys2Proof.Machine

/-! ### How a command ends (R302, R303, R307) -/

/-- A state that writes to the command's destination spans and output registers lead to from `s`. Each span written
passed the check of R84. -/
inductive Wrote (i : Instr) (s : State) : State → Prop where
  | start : Wrote i s s
  | span {t : State} (h : Wrote i s t) (k : SpanReg) (v : Nat) (e : Bool) (hk : k ∈ i.destSpans) (hfit : s.Fits k) :
      Wrote i s (t.writeSpan k v e)
  | dr {t : State} (h : Wrote i s t) (k : DigitReg) (v : Nat) (hk : k ∈ i.destDrs) : Wrote i s (t.writeDr k v)

/-- Every way a command can end: NOP's and CLRF's, an abort, or `complete` after writes to its destinations. -/
inductive Ended (i : Instr) (s : State) : State → Prop where
  | nop : Ended i s s.endCommand
  | clrf : Ended i s s.clearFlags.endCommand
  | abort (code : ErrCode) (h : code ≠ .none) : Ended i s (s.abort (encode i) code)
  | complete {u : State} (h : Wrote i s u) (ovf : Bool) : Ended i s (u.complete ovf)

/-- The checks of R302 never record code 0, so a checked command ends as its operation does or by an abort. -/
theorem Ended.checked {i : Instr} {s : State} {checks : List (Bool × ErrCode)} {op : State → State}
    (hcode : ∀ x ∈ checks, x.2 ≠ .none) (hop : firstFailure checks = none → Ended i s (op s)) :
    Ended i s (checked (encode i) checks op s) := by
  rcases checked_cases (encode i) checks op s with ⟨hpass, heq⟩ | ⟨code, -, ⟨pass, hmem⟩, heq⟩
  · exact heq ▸ hop hpass
  · exact heq ▸ .abort code (hcode _ hmem)

/-- R84: once the checks have passed, every span that SPAN_RANGE looks at fits DMEM. -/
theorem fits_of_rangeCheck {c : Params} {ps : List Span} {rest : List (Bool × ErrCode)}
    (h : firstFailure (rangeCheck c ps :: rest) = none) : ∀ p ∈ ps, p.start + p.size ≤ c.depth := by
  intro p hp
  rw [rangeCheck, firstFailure] at h
  split at h
  · exact (p.fits_iff c).1 (List.all_eq_true.1 ‹_› p hp)
  · cases h

/-- `Ended.checked` for the commands with spans, whose first check is SPAN_RANGE. -/
theorem Ended.checkedSpans {i : Instr} {s : State} {ps : List Span} {rest : List (Bool × ErrCode)}
    {op : State → State} (hcode : ∀ x ∈ rest, x.2 ≠ .none)
    (hop : (∀ p ∈ ps, p.start + p.size ≤ s.cfg.depth) → Ended i s (op s)) :
    Ended i s (Machine.checked (encode i) (rangeCheck s.cfg ps :: rest) op s) :=
  .checked (List.forall_mem_cons.2 ⟨by simp [rangeCheck], hcode⟩) fun h => hop (fits_of_rangeCheck h)

/-- `Ended.checked` for the commands with two digit outputs. -/
theorem Ended.checkedOutputs {i : Instr} {s : State} {x y : DigitReg} {op : State → State} (hop : Ended i s (op s)) :
    Ended i s (Machine.checked (encode i) (outputChecks x y) op s) :=
  .checked (by simp [outputChecks, overlapCheck]) fun _ => hop

/-- INCD, DECD, INCS, DECS and NEG end in the write-back of R170. -/
theorem Ended.writeBack {i : Instr} {s : State} {k : SpanReg} (range : Range) (r : Int) (hk : k ∈ i.destSpans)
    (hfit : s.Fits k) : Ended i s (s.writeBack k range r) :=
  .complete (.span .start k _ _ hk hfit) _

/-- MACD and MULD end in a span write and the carry. -/
theorem Ended.writeWithCarry {i : Instr} {s : State} {k : SpanReg} {carry : DigitReg} (r : Nat) (hk : k ∈ i.destSpans)
    (hfit : s.Fits k) (hcarry : carry ∈ i.destDrs) : Ended i s (s.writeWithCarry k carry r) :=
  .complete (.dr (.span .start k _ _ hk hfit) carry _ hcarry) _

/-- MULP, MULPA and DIVP end in two digit writes. -/
theorem Ended.completePair {i : Instr} {s : State} {x y : DigitReg} (v w : Nat) (ovf : Bool) (hx : x ∈ i.destDrs)
    (hy : y ∈ i.destDrs) : Ended i s (((s.writeDr x v).writeDr y w).complete ovf) :=
  .complete (.dr (.dr .start x v hx) y w hy) ovf

/-- Everything `exec` can do: it answers a next state, in which the command has ended. -/
theorem exec_ended (i : Instr) (s : State) : ∃ t, exec i s = .next t ∧ Ended i s t := by
  cases i with
  | nop => exact ⟨_, rfl, .nop⟩
  | clrf => exact ⟨_, rfl, .clrf⟩
  | incd range sd d | decd range sd d =>
    exact ⟨_, rfl, .checkedSpans (by simp [countCheck]) fun hfit =>
      .writeBack _ _ (.head _) (hfit _ (.head _))⟩
  | incs range sd sa | decs range sd sa =>
    exact ⟨_, rfl, .checkedSpans (by simp [countCheck, overlapCheck]) fun hfit =>
      .writeBack _ _ (.head _) (hfit _ (.head _))⟩
  | neg range sd =>
    exact ⟨_, rfl, .checkedSpans (by simp [countCheck]) fun hfit =>
      .writeBack _ _ (.head _) (hfit _ (.head _))⟩
  | macd sd sa m a carry =>
    exact ⟨_, rfl, .checkedSpans (by simp [countCheck, extCheck, overlapCheck]) fun hfit =>
      .writeWithCarry _ (.head _) (hfit _ (.head _)) (.head _)⟩
  | mulp lo hi x y | mulpa lo hi x y z =>
    exact ⟨_, rfl, .checkedOutputs (.completePair _ _ _ (.head _) (by simp [Instr.destDrs]))⟩
  | muld sd m a carry =>
    exact ⟨_, rfl, .checkedSpans (by simp [countCheck, extCheck]) fun hfit =>
      .writeWithCarry _ (.head _) (hfit _ (.head _)) (.head _)⟩
  | mul sd sa sb alg | sqr sd sa alg =>
    exact ⟨_, rfl, .checkedSpans (by simp [countCheck, extCheck, overlapCheck]) fun hfit =>
      .complete (.span .start sd _ _ (.head _) (hfit _ (.head _))) _⟩
  | divp q r h l v =>
    exact ⟨_, rfl, .checkedOutputs (.completePair _ _ _ (.head _) (by simp [Instr.destDrs]))⟩
  | divd sd v r =>
    exact ⟨_, rfl, .checkedSpans (by simp [countCheck, extCheck]) fun hfit =>
      .complete (.dr (.span .start sd _ _ (.head _) (hfit _ (.head _))) r _
        (.head _)) _⟩
  | remd sa v r =>
    exact ⟨_, rfl, .checkedSpans (by simp [countCheck, extCheck]) fun _ =>
      .complete (.dr .start r _ (.head _)) _⟩
  | ldiv sq sr sa sb =>
    exact ⟨_, rfl, .checkedSpans (by simp [countCheck, extCheck, overlapCheck, normalCheck]) fun hfit =>
      .complete (.span (.span .start sq _ _ (.head _) (hfit _ (.head _))) sr _ _
        (by simp [Instr.destSpans]) (hfit _ (by simp))) _⟩

/-! ### What a command leaves alone (R32, R33, R86) -/

/-- No write touches a descriptor's BASE or COUNT (R33, R35). -/
theorem Wrote.base_count {i : Instr} {s t : State} (h : Wrote i s t) (k : SpanReg) :
    (t.span k).base = (s.span k).base ∧ (t.span k).count = (s.span k).count := by
  induction h with
  | start => exact ⟨rfl, rfl⟩
  | @span t _ j v e _ _ ih =>
    by_cases hj : k = j
    · subst hj; rwa [State.span_writeSpan_same]
    · rwa [t.span_writeSpan_of_ne v e hj]
  | dr _ _ _ _ ih => exact ih

theorem Wrote.start_size {i : Instr} {s t : State} (h : Wrote i s t) (k : SpanReg) :
    (t.span k).start = (s.span k).start ∧ (t.span k).size = (s.span k).size :=
  (h.base_count k).imp (congrArg BitVec.toNat) (congrArg BitVec.toNat)

theorem Wrote.sameSetup {i : Instr} {s t : State} (h : Wrote i s t) : SameSetup s t := by
  induction h with
  | start => exact ⟨rfl, rfl, rfl, rfl, rfl, rfl⟩
  | span _ _ _ _ _ _ ih => exact ih
  | dr _ _ _ _ ih => exact ih

theorem Wrote.fits {i : Instr} {s t : State} (h : Wrote i s t) {k : SpanReg} (hfit : s.Fits k) : t.Fits k := by
  rwa [State.Fits, (h.start_size k).1, (h.start_size k).2, h.sameSetup.1]

theorem Wrote.digitsSameOutside {i : Instr} {s t : State} (h : Wrote i s t) :
    DigitsSameOutside s t (i.destSpans.map s.span) := by
  intro a ha
  induction h with
  | start => rfl
  | span ht k v e hk _ ih =>
    have hout := ha _ (List.mem_map_of_mem hk)
    rw [Span.not_covers_iff, ← (ht.start_size k).1, ← (ht.start_size k).2, ← Span.not_covers_iff] at hout
    rw [State.readDigit_writeSpan_outside _ k v e hout, ih]
  | dr _ _ _ _ ih => exact ih

theorem Wrote.spansSameBut {i : Instr} {s t : State} (h : Wrote i s t) : SpansSameBut s t i.destSpans := by
  intro j hj
  induction h with
  | start => rfl
  | span _ k v e hk _ ih => rw [State.span_writeSpan_of_ne _ v e (ne_of_mem_of_not_mem hk hj).symm, ih]
  | dr _ _ _ _ ih => exact ih

theorem State.dr_writeDr_of_ne (s : State) {k j : DigitReg} (v : Nat) (h : j ≠ k) :
    (s.writeDr k v).dr[j] = s.dr[j] := by
  have hval : k.val ≠ j.val := fun e => h (Fin.ext e.symm)
  simp [hval]

theorem Wrote.drsSameBut {i : Instr} {s t : State} (h : Wrote i s t) : DrsSameBut s t i.destDrs := by
  intro j hj
  induction h with
  | start => rfl
  | span _ _ _ _ _ _ ih => exact ih
  | dr _ k v hk ih => rw [State.dr_writeDr_of_ne _ v (ne_of_mem_of_not_mem hk hj).symm, ih]

/-- Settles O36: a command's end follows writes to its destinations alone, each of which has its frame. -/
theorem commandsWriteOnlyTheirDestinations : Obligations.CommandsWriteOnlyTheirDestinations := by
  intro i s t hexec
  obtain ⟨t', hnext, hended⟩ := exec_ended i s
  obtain rfl : t' = t := by simpa [hnext] using hexec
  cases hended with
  | nop | clrf | abort =>
    exact ⟨fun _ _ => rfl, fun _ _ => rfl, fun _ _ => rfl, Wrote.start.sameSetup (i := i), fun _ => ⟨rfl, rfl⟩⟩
  | complete h ovf =>
    exact ⟨h.digitsSameOutside, h.spansSameBut, h.drsSameBut, h.sameSetup, h.base_count⟩

/-! ### The invariant, update by update (O50, O51) -/

section inv_updates
variable {s : State} (h : s.Inv)
include h

/-- The invariant says nothing of the outside world's pending acts and of the words it has read. -/
theorem State.Inv.withOutside (events : List HostEvent) (readLog : List Word) :
    State.Inv { s with events := events, readLog := readLog } := { h with }

theorem State.Inv.endCommand : s.endCommand.Inv := { h with }

theorem State.Inv.clearFlags : s.clearFlags.Inv :=
  { h with stickyOfOvf := fun hovf => by simp at hovf }

theorem State.Inv.clearErr : s.clearErr.Inv :=
  { h with codeOfErr := by simp, errCmdOfErr := fun _ => rfl, recordOfErr := fun herr => by simp at herr }

/-- R303: an abort with a code of R301's table, so not 0. -/
theorem State.Inv.abort (c : Word) {code : ErrCode} (hcode : code ≠ .none) : (s.abort c code).Inv :=
  { h with codeOfErr := by simp [hcode], errCmdOfErr := fun herr => by simp at herr, recordOfErr := fun _ => rfl }

theorem State.Inv.complete (ovf : Bool) : (s.complete ovf).Inv :=
  { h with
    stickyOfOvf := fun (hovf : ovf = true) => by simp [hovf]
    epochSpent := Nat.lt_succ_of_lt h.epochSpent }

theorem State.Inv.writeDr (k : DigitReg) (v : Nat) : (s.writeDr k v).Inv := by
  refine { h with drDigits := fun j => ?_ }
  by_cases hj : j = k
  · subst hj
    simpa using toDigit_lt s.cfg v
  · rw [s.dr_writeDr_of_ne v hj]
    exact h.drDigits j

theorem State.Inv.writeDigit {a : Nat} (v : Nat) (ha : a < s.cfg.depth) : (s.writeDigit a v).Inv := by
  refine { h with
    dmemCanonical := Memory.store_wf _ _ _ h.dmemCanonical
    dmemInRange := fun x hx => ?_, dmemDigits := fun x hx => ?_ }
  · obtain rfl | hold := Memory.mem_store hx
    · exact ha
    · exact h.dmemInRange x hold
  · obtain rfl | hold := Memory.mem_store hx
    · exact toDigit_lt _ _
    · exact h.dmemDigits x hold

theorem State.Inv.writeSpan {k : SpanReg} (v : Nat) (e : Bool) (hfit : s.Fits k) : (s.writeSpan k v e).Inv := by
  refine { h with
    dmemCanonical := Memory.storeDigits_wf _ _ _ _ _ h.dmemCanonical
    dmemInRange := fun x hx => ?_, dmemDigits := fun x hx => ?_ }
  · obtain hold | ⟨-, hlt, -⟩ := Memory.mem_storeDigits hx
    · exact h.dmemInRange x hold
    · exact lt_of_lt_of_le hlt hfit
  · obtain hold | ⟨-, -, hdigit⟩ := Memory.mem_storeDigits hx
    · exact h.dmemDigits x hold
    · exact hdigit

end inv_updates

@[simp] theorem truncDigit_toNat (c : Params) (d : Digit) : (truncDigit c d).toNat = d.toNat % c.radix :=
  toDigit_toNat c d.toNat

/-- R50: the state after reset meets the invariant: DMEM lists no digit, each DR holds W bits, no error is latched. -/
theorem State.afterReset_inv (c : Params) (draw : Nat) (hc : c.ok = true) : (State.afterReset c draw).Inv where
  params := hc
  dmemCanonical := rfl
  dmemInRange := fun _ hx => by cases hx
  dmemDigits := fun _ hx => by cases hx
  drDigits := fun k => by simpa [State.afterReset] using Nat.mod_lt _ c.radix_pos
  codeOfErr := by simp [State.afterReset]
  errCmdOfErr := fun _ => rfl
  recordOfErr := fun herr => by cases herr
  stickyOfOvf := fun hovf => by cases hovf
  epochSpent := Nat.lt_succ_self draw

/-- Settles O51: `State.reset` is a reset with legal parameters. -/
theorem resetMeetsInvariant : Obligations.ResetMeetsInvariant :=
  ⟨State.afterReset_inv, State.afterReset_inv _ _ (by decide)⟩

theorem State.Inv.applyReset {s : State} (h : s.Inv) : s.applyReset.Inv :=
  { State.afterReset_inv s.cfg s.draws h.params with recordOfErr := fun herr => by cases herr }

/-! ### Every step keeps the invariant -/

theorem Wrote.inv {i : Instr} {s t : State} (h : Wrote i s t) (hinv : s.Inv) : t.Inv := by
  induction h with
  | start => exact hinv
  | span ht _ v e _ hfit ih => exact ih.writeSpan v e (ht.fits hfit)
  | dr _ k v _ ih => exact ih.writeDr k v

theorem Ended.inv {i : Instr} {s t : State} (h : Ended i s t) (hinv : s.Inv) : t.Inv := by
  cases h with
  | nop => exact hinv.endCommand
  | clrf => exact hinv.clearFlags.endCommand
  | abort code hcode => exact hinv.abort _ hcode
  | complete hwrote ovf => exact (hwrote.inv hinv).complete ovf

/-- Whatever the engine does with the word in flight, the invariant holds after it. -/
theorem runCommand_inv {s t : State} (c : Word) (hinv : s.Inv) (hrun : runCommand c s = .next t) : t.Inv := by
  obtain ⟨-, heq⟩ | ⟨-, i, -, heq⟩ | ⟨-, e, -, heq⟩ := runCommand_cases c s
  · obtain rfl : s.endCommand = t := by simpa [heq] using hrun
    exact hinv.endCommand
  · obtain ⟨t', hnext, hended⟩ := exec_ended i s
    obtain rfl : t' = t := by simpa [heq, hnext] using hrun
    exact hended.inv hinv
  · obtain rfl : s.abort c (ErrCode.ofDecode e) = t := by simpa [heq] using hrun
    exact hinv.abort c (ErrCode.ofDecode_ne_none e)

/-- R82, R49: an offset that reaches a digit of DMEM reaches one of the DMEM_DEPTH digits. -/
theorem portReg_dmem_lt {c : Params} {o i : Nat} (h : portReg c o = .dmemLo i ∨ portReg c o = .dmemHi i) :
    i < c.depth := by
  by_cases hdmem : 0x1000 ≤ o - o % 4 ∧ o - o % 4 < 0x1000 + 8 * c.depth
  · have hi : i = (o - o % 4 - 0x1000) / 8 := by
      rw [portReg, portRegAt, if_neg (by omega), if_neg (by omega), if_neg (by omega), if_pos hdmem] at h
      split at h <;> simpa [eq_comm] using h
    omega
  · unfold portReg portRegAt at h
    rw [if_neg hdmem] at h
    repeat' split at h
    all_goals simp at h

/-- R40, R305: a write to CTRL sets the enables, and bit 8 clears the error. -/
theorem State.Inv.writeCtrl {s : State} (h : s.Inv) (v : Word) : (s.writeCtrl v).Inv := by
  have henables : State.Inv { s with ieDone := v.getLsbD 0, ieErr := v.getLsbD 1 } := { h with }
  unfold State.writeCtrl
  split
  · exact henables.clearErr
  · exact henables

theorem State.Inv.portWrite {s : State} (h : s.Inv) (o : Nat) (v : Word) :
    (s.portWrite (portReg s.cfg o) v).Inv := by
  cases hreg : portReg s.cfg o with
  | id | cfgDepth | cfgKthresh | cfgCounts | errCmd | reserved => exact h
  | ctrl => exact h.writeCtrl v
  | status | cmd | spBase _ | spCount _ | spExt _ => exact { h with }
  | drLo k => exact h.writeDr _ _
  | drHi k =>
    show State.Inv (if _ then _ else _)
    split
    · exact h.writeDr _ _
    · exact h
  | dmemLo i => exact h.writeDigit _ (portReg_dmem_lt (.inl hreg))
  | dmemHi i =>
    show State.Inv (if _ then _ else _)
    split
    · exact h.writeDigit _ (portReg_dmem_lt (.inr hreg))
    · exact h

theorem State.Inv.serve {s : State} (h : s.Inv) (op : HostOp) : (s.serve op).Inv := by
  cases op with
  | read addr =>
    by_cases hbase : s.cfg.umnBase ≤ addr
    · exact serve_read hbase ▸ h.withOutside _ _
    · rwa [(serve_below (not_le.1 hbase) 0).1]
  | write addr v =>
    by_cases hbase : s.cfg.umnBase ≤ addr
    · exact serve_write v hbase ▸ h.portWrite _ v
    · rwa [(serve_below (not_le.1 hbase) v).2]
  | reset => exact h.applyReset

/-- Settles O50: a step idles, serves an act or runs the command in flight, and each keeps the invariant. -/
theorem stepKeepsInvariant : Obligations.StepKeepsInvariant := by
  intro s t hinv hstep
  obtain ⟨-, -, heq⟩ | ⟨ev, rest, -, -, heq⟩ | ⟨c, -, -, heq⟩ := step_cases s
  · obtain rfl : s = t := by simpa [heq] using hstep
    exact hinv
  · obtain rfl : State.serve { s with events := rest } ev.op = t := by simpa [heq] using hstep
    exact (hinv.withOutside rest s.readLog).serve ev.op
  · exact runCommand_inv c hinv (heq ▸ hstep)

/-! ### The digits of a span's value (R36, R37) -/

/-- R37 inside the region: EXT weighs B^n, so it reaches no digit below n. -/
theorem State.val_digit_inside (s : State) (p : Span) {i : Nat} (hi : i < p.size) :
    s.val p / (s.cfg.radix : Int) ^ i % (s.cfg.radix : Int) = s.readDigit (p.start + i) := by
  have hB : (s.cfg.radix : Int) ≠ 0 := by exact_mod_cast s.cfg.radix_pos.ne'
  have hvalu : (s.valu p : Int) / (s.cfg.radix : Int) ^ i % (s.cfg.radix : Int) = s.readDigit (p.start + i) := by
    exact_mod_cast s.memRead_digit p.start p.size i hi
  have hmod : (p.modulus s.cfg : Int) =
      (s.cfg.radix : Int) ^ i * ((s.cfg.radix : Int) * (s.cfg.radix : Int) ^ (p.size - i - 1)) := by
    rw [← pow_succ', ← pow_add, Span.modulus, Nat.cast_pow, show i + (p.size - i - 1 + 1) = p.size by omega]
  unfold State.val
  split
  · rw [hmod, Int.sub_mul_ediv_left _ _ (pow_ne_zero _ hB), Int.sub_mul_emod_self_left, hvalu]
  · exact hvalu

/-- R36 past the region: the digits that the extension bit repeats. -/
theorem State.val_digit_outside (s : State) (p : Span) {i : Nat} (hi : p.size ≤ i) :
    s.val p / (s.cfg.radix : Int) ^ i % (s.cfg.radix : Int) = rep s.cfg p.ext := by
  have hpos := s.cfg.radix_pos
  have hvalu : (s.valu p : Int) < (s.cfg.radix : Int) ^ i := by
    exact_mod_cast (s.valu_lt p).trans_le (Nat.pow_le_pow_right hpos hi)
  have hlt : (s.valu p : Int) < p.modulus s.cfg := by exact_mod_cast s.valu_lt p
  have hmod : (p.modulus s.cfg : Int) ≤ (s.cfg.radix : Int) ^ i := by
    exact_mod_cast Nat.pow_le_pow_right hpos hi
  unfold State.val rep
  split
  · have hneg : ((s.valu p : Int) - p.modulus s.cfg) / (s.cfg.radix : Int) ^ i = -1 := by
      rw [Int.ediv_eq_iff_of_pos (by omega)]
      omega
    rw [hneg, Nat.cast_sub hpos, ← Int.add_emod_right, Int.emod_eq_of_lt (by omega) (by omega)]
    omega
  · rw [Int.ediv_eq_zero_of_lt (by omega) hvalu]
    rfl

/-- Settles O28: the digit is in the region or past it. -/
theorem spanValueHasDigitAtDigits : Obligations.SpanValueHasDigitAtDigits := by
  intro s p i
  unfold State.digitAt
  split
  · exact s.val_digit_inside p ‹_›
  · exact s.val_digit_outside p (not_lt.1 ‹_›)

/-! ### The scratch storage is read by nothing (R47) -/

/-- The state with another content of the scratch storage. -/
def State.withScratch (s : State) (x : List Digit) : State := { s with scratch := x }

section withScratch
variable (s : State) (x : List Digit)

@[simp] theorem State.withScratch_cfg : (s.withScratch x).cfg = s.cfg := rfl
@[simp] theorem State.withScratch_err : (s.withScratch x).err = s.err := rfl
@[simp] theorem State.span_withScratch (k : SpanReg) : (s.withScratch x).span k = s.span k := rfl
@[simp] theorem State.readDr_withScratch (k : DigitReg) : (s.withScratch x).readDr k = s.readDr k := rfl
@[simp] theorem State.readDigit_withScratch (a : Nat) : (s.withScratch x).readDigit a = s.readDigit a := rfl

@[simp] theorem State.valu_withScratch (p : Span) : (s.withScratch x).valu p = s.valu p :=
  State.memRead_of_dmem (s := s) (t := s.withScratch x) rfl rfl rfl p.start p.size

@[simp] theorem State.val_withScratch (p : Span) : (s.withScratch x).val p = s.val p := by
  simp [State.val]

@[simp] theorem State.writeDr_withScratch (k : DigitReg) (v : Nat) :
    (s.withScratch x).writeDr k v = (s.writeDr k v).withScratch x := rfl
@[simp] theorem State.writeDigit_withScratch (a v : Nat) :
    (s.withScratch x).writeDigit a v = (s.writeDigit a v).withScratch x := rfl
@[simp] theorem State.writeSpan_withScratch (k : SpanReg) (v : Nat) (e : Bool) :
    (s.withScratch x).writeSpan k v e = (s.writeSpan k v e).withScratch x := rfl

/-- A completing command leaves a fresh value in the scratch storage, whatever was in it. -/
@[simp] theorem State.complete_withScratch (ovf : Bool) : (s.withScratch x).complete ovf = s.complete ovf := rfl
@[simp] theorem State.writeBack_withScratch (k : SpanReg) (range : Range) (r : Int) :
    (s.withScratch x).writeBack k range r = s.writeBack k range r := rfl
@[simp] theorem State.writeWithCarry_withScratch (k : SpanReg) (carry : DigitReg) (r : Nat) :
    (s.withScratch x).writeWithCarry k carry r = s.writeWithCarry k carry r := rfl

theorem normalCheck_withScratch (p : Span) : normalCheck (s.withScratch x) p = normalCheck s p := by
  simp [normalCheck]

@[simp] theorem State.portRead_withScratch (r : PortReg) : (s.withScratch x).portRead r = s.portRead r := by
  cases r <;> rfl

theorem State.portWrite_withScratch (r : PortReg) (v : Word) :
    (s.withScratch x).portWrite r v = (s.portWrite r v).withScratch x := by
  cases r with
  | ctrl =>
    simp only [State.portWrite, State.writeCtrl]
    split <;> rfl
  | drHi k | dmemHi i =>
    by_cases hw : s.cfg.bits = 64 <;> simp [State.portWrite, hw]
  | _ => rfl

end withScratch

/-- `f` answers a next state, and its answer depends on the scratch storage in the scratch storage at most. -/
def ScratchBlind (f : State → Host.Outcome State Fault Refusal) : Prop :=
  ∀ (s : State) (x : List Digit), ∃ (t : State) (y : List Digit),
    f s = .next t ∧ f (s.withScratch x) = .next (t.withScratch y)

theorem ScratchBlind.checked {c : Word} {checks : State → List (Bool × ErrCode)} {op : State → State}
    (hchecks : ∀ s x, checks (s.withScratch x) = checks s) (hop : ∀ s x, op (s.withScratch x) = op s) :
    ScratchBlind fun s => .next (checked c (checks s) op s) := by
  intro s x
  dsimp only
  rw [hchecks]
  obtain ⟨hpass, -⟩ | ⟨code, hfail, -⟩ := checked_cases c (checks s) op s
  · exact ⟨op s, (op s).scratch, by simp [Machine.checked, hpass], by simp only [Machine.checked, hpass, hop]; rfl⟩
  · exact ⟨s.abort c code, x, by simp [Machine.checked, hfail], by simp only [Machine.checked, hfail]; rfl⟩

theorem exec_scratchBlind (i : Instr) : ScratchBlind (exec i) := by
  cases i with
  | nop => exact fun s x => ⟨s.endCommand, x, rfl, rfl⟩
  | clrf => exact fun s x => ⟨s.clearFlags.endCommand, x, rfl, rfl⟩
  | ldiv sq sr sa sb =>
    exact .checked (fun s x => by rw [normalCheck_withScratch]; rfl) fun s x => by simp
  | divp q r h l v => exact .checked (fun s x => rfl) fun s x => rfl
  | divd p v r | remd p v r =>
    exact .checked (fun s x => rfl) fun s x => by simp only [State.span_withScratch, State.valu_withScratch]; rfl
  | _ => exact .checked (fun s x => rfl) fun s x => by simp

theorem runCommand_scratchBlind (c : Word) : ScratchBlind (runCommand c) := by
  intro s x
  obtain ⟨herr, heq⟩ | ⟨herr, i, hd, heq⟩ | ⟨herr, e, hd, heq⟩ := runCommand_cases c s
  · exact ⟨s.endCommand, x, heq, runCommand_latched (s := s.withScratch x) c herr⟩
  · rw [heq, runCommand_ok (s := s.withScratch x) herr hd]
    exact exec_scratchBlind i s x
  · exact ⟨_, x, heq, runCommand_error (s := s.withScratch x) herr hd⟩

theorem serve_scratchBlind (op : HostOp) : ScratchBlind fun s => .next (s.serve op) := by
  intro s x
  cases op with
  | read addr =>
    refine ⟨_, x, rfl, congrArg _ ?_⟩
    by_cases hbase : s.cfg.umnBase ≤ addr
    · rw [serve_read hbase, serve_read (s := s.withScratch x) hbase, State.portRead_withScratch]
      rfl
    · rw [(serve_below (not_le.1 hbase) 0).1, (serve_below (s := s.withScratch x) (not_le.1 hbase) 0).1]
  | write addr v =>
    refine ⟨_, x, rfl, congrArg _ ?_⟩
    by_cases hbase : s.cfg.umnBase ≤ addr
    · rw [serve_write v hbase, serve_write (s := s.withScratch x) v hbase, State.portWrite_withScratch]
      rfl
    · rw [(serve_below (not_le.1 hbase) v).2, (serve_below (s := s.withScratch x) (not_le.1 hbase) v).2]
  | reset => exact ⟨s.applyReset, s.applyReset.scratch, rfl, rfl⟩

/-- Settles O38: both states take the same branch of the step, and each branch is blind to the scratch storage. -/
theorem scratchIsUnobservable : Obligations.ScratchIsUnobservable := by
  intro s x
  obtain ⟨hidle, hev, heq⟩ | ⟨ev, rest, hev, hnow, heq⟩ | ⟨c, hcmd, hnext, heq⟩ := step_cases s
  · exact ⟨s, x, heq, step_idle (s := s.withScratch x) hidle hev⟩
  · have heq' : step (s.withScratch x) = .next (State.serve { s.withScratch x with events := rest } ev.op) := by
      obtain hidle | ⟨hearly, hstall⟩ := hnow
      · exact step_serve (s := s.withScratch x) hidle hev
      · obtain hcmd | ⟨c, hcmd⟩ := Option.eq_none_or_eq_some s.inFlight
        · exact step_serve (s := s.withScratch x) hcmd hev
        · exact step_early (s := s.withScratch x) hcmd hev hearly hstall
    obtain ⟨t, y, ht, hy⟩ := serve_scratchBlind ev.op { s with events := rest } x
    exact ⟨t, y, heq.trans ht, heq'.trans hy⟩
  · obtain ⟨t, y, ht, hy⟩ := runCommand_scratchBlind c s x
    exact ⟨t, y, heq.trans ht, (step_engine (s := s.withScratch x) hcmd hnext).trans hy⟩

/-! ### What waits for the command in flight, and what does not (R39, R44, R90) -/

theorem Ended.ends {i : Instr} {s t : State} (h : Ended i s t) :
    t.inFlight = none ∧ t.done = true ∧ SameSetup s t := by
  cases h with
  | nop | clrf | abort => exact ⟨rfl, rfl, Wrote.start.sameSetup (i := i)⟩
  | complete hwrote ovf => exact ⟨rfl, rfl, hwrote.sameSetup⟩

/-- R307, R348: whatever the engine does with the word in flight, it ends it in this step. -/
theorem runCommand_ends (c : Word) (s : State) :
    ∃ t, runCommand c s = .next t ∧ t.inFlight = none ∧ t.done = true ∧ SameSetup s t := by
  obtain ⟨-, heq⟩ | ⟨-, i, -, heq⟩ | ⟨-, e, -, heq⟩ := runCommand_cases c s
  · exact ⟨_, heq, (Ended.nop (i := .nop)).ends⟩
  · obtain ⟨t, hnext, hended⟩ := exec_ended i s
    exact ⟨t, heq.trans hnext, hended.ends⟩
  · exact ⟨_, heq, rfl, rfl, Wrote.start.sameSetup (i := .nop)⟩

/-- R90: a read of the block waits unless it is of the word at 0x014. -/
theorem stalls_read_iff {c : Params} {addr : Nat} (h : c.umnBase ≤ addr) :
    stalls c (.read addr) = true ↔ (addr - c.umnBase) / 4 ≠ 5 := by
  rw [stalls_read h, decide_eq_true_iff, Ne, portReg_eq_status_iff]

/-- Settles O60: an access that stalls leaves the step to the engine. -/
theorem hostAccessWaitsForCommand : Obligations.HostAccessWaitsForCommand := by
  refine fun s addr hbase =>
    ⟨fun v => stalls_write v hbase, stalls_read_iff hbase, fun c ev rest hcmd hev haccess => ?_⟩
  have hstall : stalls s.cfg ev.op = true := by
    obtain ⟨v, hop⟩ | ⟨hop, hword⟩ := haccess
    · exact hop ▸ stalls_write v hbase
    · exact hop ▸ (stalls_read_iff hbase).2 hword
  have hnext : s.EngineNext := fun e he => by
    obtain rfl : ev = e := by simpa [hev] using he
    exact .inr hstall
  obtain ⟨t, hrun, hidle, hdone, -, -, -, -, hevents, hlog⟩ := runCommand_ends c s
  exact ⟨step_engine hcmd hnext, t, (step_engine hcmd hnext).trans hrun, hidle, hdone, hevents, hlog⟩

/-! ### STATUS and the IRQ line (R39, R46, R301) -/

theorem ErrCode.number_lt (e : ErrCode) : e.number < 9 := by cases e <;> decide

theorem State.statusWord_toNat (s : State) : s.statusWord.toNat =
    s.busy.toNat + 2 * s.done.toNat + 4 * s.ovf.toNat + 8 * s.sticky.toNat + 16 * s.err.toNat
      + 256 * s.errCode.number := by
  have := s.errCode.number_lt
  have := s.busy.toNat_lt
  have := s.done.toNat_lt
  have := s.ovf.toNat_lt
  have := s.sticky.toNat_lt
  have := s.err.toNat_lt
  rw [State.statusWord, BitVec.toNat_ofNat, Nat.mod_eq_of_lt (by omega)]

/-- R39: the parts of STATUS. -/
theorem State.statusWord_fields (s : State) :
    s.statusWord.getLsbD 0 = s.busy ∧ s.statusWord.getLsbD 1 = s.done ∧ s.statusWord.getLsbD 2 = s.ovf ∧
    s.statusWord.getLsbD 3 = s.sticky ∧ s.statusWord.getLsbD 4 = s.err ∧
    s.statusWord.toNat / 2 ^ 5 % 2 ^ 3 = 0 ∧ s.statusWord.toNat / 2 ^ 8 % 2 ^ 8 = s.errCode.number ∧
    s.statusWord.toNat / 2 ^ 16 = 0 := by
  have := s.errCode.number_lt
  have := s.busy.toNat_lt
  have := s.done.toNat_lt
  have := s.ovf.toNat_lt
  have := s.sticky.toNat_lt
  have := s.err.toNat_lt
  have hbit : ∀ (k : Nat) (b : Bool), s.statusWord.toNat / 2 ^ k % 2 = b.toNat → s.statusWord.getLsbD k = b := by
    intro k b h
    rw [BitVec.getLsbD, Nat.testBit_eq_decide_div_mod_eq, h]
    simp
  have hword := s.statusWord_toNat
  refine ⟨hbit _ _ ?_, hbit _ _ ?_, hbit _ _ ?_, hbit _ _ ?_, hbit _ _ ?_, ?_, ?_, ?_⟩ <;> omega

theorem portReg_status {c : Params} {o : Nat} (h : o / 4 = 5) : portReg c o = .status := (portReg_eq_status_iff c o).2 h

/-- Settles O44: the read does not stall, so the step serves it, and BUSY is the word in flight. -/
theorem statusReadSeesBusy : Obligations.StatusReadSeesBusy := by
  intro s c addr rest hcmd hev hbase hword
  have hstall : stalls s.cfg (.read addr) = false := by
    rw [← Bool.not_eq_true, stalls_read_iff hbase]
    exact not_not.2 hword
  obtain ⟨hbusy, hdone, hovf, hsticky, herr, -⟩ := s.statusWord_fields
  refine ⟨s.statusWord, ?_, by simpa [State.busy, hcmd] using hbusy, hdone, hovf, hsticky, herr⟩
  rw [step_early hcmd hev rfl hstall]
  refine congrArg _ ((serve_read (s := { s with events := rest }) hbase).trans ?_)
  rw [portReg_status hword]
  rfl

/-- Settles O52, by the parts of the STATUS word. -/
theorem statusWordAndIrqLevel : Obligations.StatusWordAndIrqLevel := by
  refine ⟨by decide, fun s => ⟨?_, by simp [State.irq], s.statusWord_fields⟩⟩
  rw [portReg_status (by decide)]
  rfl

/-! ### Accesses that a step serves (R44, R90, R340) -/

/-- No write to a register reaches the parameters, the pending acts or the words read. -/
theorem State.portWrite_outside (s : State) (r : PortReg) (v : Word) :
    (s.portWrite r v).events = s.events ∧ (s.portWrite r v).readLog = s.readLog ∧ (s.portWrite r v).cfg = s.cfg := by
  cases r with
  | ctrl =>
    simp only [State.portWrite, State.writeCtrl]
    split <;> exact ⟨rfl, rfl, rfl⟩
  | drHi k | dmemHi i =>
    simp only [State.portWrite]
    split <;> exact ⟨rfl, rfl, rfl⟩
  | _ => exact ⟨rfl, rfl, rfl⟩

theorem step_write {s : State} {ev : HostEvent} {rest : List HostEvent} {addr : Nat} {v : Word}
    (hidle : s.inFlight = none) (hev : s.events = ev :: rest) (hop : ev.op = .write addr v) (hbase : s.cfg.umnBase ≤ addr) :
    step s = .next (State.portWrite { s with events := rest } (portReg s.cfg (addr - s.cfg.umnBase)) v) := by
  rw [step_serve hidle hev, hop]
  exact congrArg _ (serve_write (s := { s with events := rest }) v hbase)

/-- Settles O59: serving the act is `portWrite`, which leaves the outside world's side alone. -/
theorem stepServesHostWrite : Obligations.StepServesHostWrite := by
  intro s ev rest addr v hidle hev hop hbase
  exact ⟨_, step_write hidle hev hop hbase, rfl,
    State.portWrite_outside { s with events := rest } (portReg s.cfg (addr - s.cfg.umnBase)) v⟩

/-- R48: CMD is the word at 0x018. -/
theorem portReg_cmd {c : Params} {o : Nat} (h : o / 4 = 6) : portReg c o = .cmd := by
  have hword : (o - o % 4) / 4 = 6 := by omega
  rw [portReg, portRegAt, if_pos (by omega), hword]
  rfl

/-- Settles O45: the word written is that of CMD, and the write to it raises BUSY alone. -/
theorem cmdWriteIsAccepted : Obligations.CmdWriteIsAccepted := by
  intro s ev addr c rest hidle hev hop hbase hword
  rw [step_write hidle hev hop hbase, portReg_cmd hword]
  rfl

theorem step_reset {s : State} {ev : HostEvent} {rest : List HostEvent} (hev : s.events = ev :: rest)
    (hop : ev.op = .reset) (hnow : s.inFlight = none ∨ ev.early = true) :
    step s = .next (State.applyReset { s with events := rest }) := by
  obtain hidle | ⟨c, hcmd⟩ := Option.eq_none_or_eq_some s.inFlight
  · rw [step_serve hidle hev, hop]
    rfl
  · have hearly : ev.early = true := hnow.resolve_left (by simp [hcmd])
    rw [step_early hcmd hev hearly (by rw [hop]; rfl), hop]
    rfl

/-- Settles O46: the reset input never stalls, and what it leaves is `State.afterReset` of a fresh draw. -/
theorem resetInputResetsEverything : Obligations.ResetInputResetsEverything := by
  intro s ev rest hev hop hnow
  refine ⟨_, step_reset hev hop hnow, rfl, rfl, rfl, rfl, rfl, rfl, rfl, rfl, rfl, fun k => ?_, rfl, rfl, rfl, rfl,
    fun a => rfl, fun k => ?_, rfl, rfl, rfl⟩
  · simp [State.span, State.applyReset, State.afterReset, Span.reset]
  · simp [State.readDr, State.applyReset, State.afterReset]

/-! ### The register map (R41, R42, R48, R49, R82) -/

theorem regNum_val (n : Fin 8) : regNum n.val = n := Fin.ext (Nat.mod_eq_of_lt n.isLt)

/-- R48: the four words of the block of SPn. -/
theorem portRegAt_span (c : Params) (n : SpanReg) {o : Nat} (ho : 0x40 ≤ o) (hn : (o - 0x40) / 16 = n.val) :
    ((o - 0x40) % 16 / 4 = 0 → portRegAt c o = .spBase n) ∧ ((o - 0x40) % 16 / 4 = 1 → portRegAt c o = .spCount n) ∧
    ((o - 0x40) % 16 / 4 = 2 → portRegAt c o = .spExt n) ∧ ((o - 0x40) % 16 / 4 = 3 → portRegAt c o = .reserved) := by
  rw [portRegAt, if_neg (by omega), if_pos (by omega), hn, regNum_val]
  refine ⟨fun h => ?_, fun h => ?_, fun h => ?_, fun h => ?_⟩ <;> (rw [h]; rfl)

/-- R48: the two words of DRk. -/
theorem portRegAt_dr (c : Params) (k : DigitReg) {o : Nat} (ho : 0x100 ≤ o) (hk : (o - 0x100) / 8 = k.val) :
    portRegAt c o = if (o - 0x100) % 8 < 4 then .drLo k else .drHi k := by
  rw [portRegAt, if_neg (by omega), if_neg (by omega), if_pos (by omega), hk, regNum_val]

/-- R82: the two words of DMEM digit i. -/
theorem portRegAt_dmem {c : Params} {i o : Nat} (hi : i < c.depth) (ho : 0x1000 ≤ o) (hn : (o - 0x1000) / 8 = i) :
    portRegAt c o = if (o - 0x1000) % 8 < 4 then .dmemLo i else .dmemHi i := by
  rw [portRegAt, if_neg (by omega), if_neg (by omega), if_neg (by omega), if_pos (by omega), hn]

/-- R49: the offsets outside the four blocks are reserved. -/
theorem portReg_reserved {c : Params} {o : Nat} (ho : (0x020 ≤ o ∧ o ≤ 0x03F) ∨ (0x0C0 ≤ o ∧ o ≤ 0x0FF) ∨
    (0x140 ≤ o ∧ o ≤ 0xFFF) ∨ 0x1000 + 8 * c.depth ≤ o) : portReg c o = .reserved := by
  rw [portReg, portRegAt, if_neg (by omega), if_neg (by omega), if_neg (by omega), if_neg (by omega)]

/-- Settles O54: by R90 the two low address bits do not matter, and each block has its own lemma. -/
theorem registerMapOfHostPort : Obligations.RegisterMapOfHostPort := by
  intro c low hlow
  refine ⟨portReg_add c rfl hlow, portReg_add c rfl hlow, portReg_add c rfl hlow, portReg_add c rfl hlow,
    portReg_add c rfl hlow, portReg_add c rfl hlow, portReg_add c rfl hlow, portReg_add c rfl hlow,
    fun n => ?_, fun k => ?_, fun i hi => ?_, fun o ho => portReg_reserved ho⟩
  · rw [portReg_add c (by omega) hlow, portReg_add c (by omega) hlow, portReg_add c (by omega) hlow,
      portReg_add c (by omega) hlow]
    obtain ⟨hbase, -⟩ := portRegAt_span c n (o := 0x040 + 0x10 * n.val) (by omega) (by omega)
    obtain ⟨-, hcount, -⟩ := portRegAt_span c n (o := 0x040 + 0x10 * n.val + 4) (by omega) (by omega)
    obtain ⟨-, -, hext, -⟩ := portRegAt_span c n (o := 0x040 + 0x10 * n.val + 8) (by omega) (by omega)
    obtain ⟨-, -, -, hrsv⟩ := portRegAt_span c n (o := 0x040 + 0x10 * n.val + 0xC) (by omega) (by omega)
    exact ⟨hbase (by omega), hcount (by omega), hext (by omega), hrsv (by omega)⟩
  · rw [portReg_add c (by omega) hlow, portReg_add c (by omega) hlow]
    exact ⟨(portRegAt_dr c k (by omega) (by omega)).trans (if_pos (by omega)),
      (portRegAt_dr c k (by omega) (by omega)).trans (if_neg (by omega))⟩
  · rw [portReg_add c (by omega) hlow, portReg_add c (by omega) hlow]
    exact ⟨(portRegAt_dmem hi (by omega) (by omega)).trans (if_pos (by omega)),
      (portRegAt_dmem hi (by omega) (by omega)).trans (if_neg (by omega))⟩

theorem Params.bits_mem (c : Params) : c.bits ∈ [8, 16, 32, 64] := by
  unfold Params.bits
  cases c.width <;> decide

/-- R41: the three parts of ID. -/
theorem idWord_fields (c : Params) : (idWord c).toNat / 2 ^ 16 = 0x554D ∧ (idWord c).toNat / 2 ^ 8 % 2 ^ 8 = 0x01 ∧
    (idWord c).toNat % 2 ^ 8 = c.bits := by
  have hbits := c.bits_le
  have hword : (idWord c).toNat = 0x554D * 2 ^ 16 + 0x01 * 2 ^ 8 + c.bits := by
    rw [idWord, BitVec.toNat_ofNat, Nat.mod_eq_of_lt (by omega)]
  omega

/-- R42, R8: CFG_DEPTH has room for every legal depth. -/
theorem cfgDepthWord_toNat {c : Params} (hc : c.ok = true) : (cfgDepthWord c).toNat = c.depth := by
  obtain ⟨-, hdepth⟩ : 64 ≤ c.depth ∧ c.depth ≤ 2 ^ 28 := by simpa [Params.ok] using hc
  rw [cfgDepthWord, BitVec.toNat_ofNat, Nat.mod_eq_of_lt (by omega)]

/-- Settles O55: the constant registers have their own words, and writes to them are ignored. -/
theorem constantAndReservedRegisters : Obligations.ConstantAndReservedRegisters := by
  intro s v hc
  obtain ⟨hid, hversion, hwidth⟩ := idWord_fields s.cfg
  exact ⟨hid, hversion, hwidth, Params.bits_mem s.cfg, cfgDepthWord_toNat hc, rfl, rfl, rfl, rfl, rfl, rfl,
    by simp [portReg, portRegAt, State.portWrite]⟩

/-- R35: EXT reads as bit 0 of what was written. -/
theorem portRead_spExt_toNat (s : State) (n : SpanReg) : (s.portRead (.spExt n)).toNat = (s.span n).ext.toNat := by
  have := (s.span n).ext.toNat_lt
  rw [State.portRead, BitVec.toNat_ofNat, Nat.mod_eq_of_lt (by omega)]

/-- Settles O58: each write replaces one descriptor by itself with one field changed. -/
theorem descriptorWrittenAndReadBack : Obligations.DescriptorWrittenAndReadBack := by
  intro s n v
  have hothers : ∀ p : Span, SpansSameBut s (s.setSpan n p) [n] := fun p k hk =>
    s.span_setSpan_of_ne p (by simpa using hk)
  refine ⟨?_, ?_, ?_⟩
  · rintro t rfl
    exact ⟨congrArg Span.base (s.span_setSpan_same n _), s.span_setSpan_same n _, hothers _, rfl⟩
  · rintro t rfl
    exact ⟨congrArg Span.count (s.span_setSpan_same n _), s.span_setSpan_same n _, hothers _, rfl⟩
  · rintro t rfl
    have hspan : (s.portWrite (.spExt n) v).span n = { s.span n with ext := v.getLsbD 0 } := s.span_setSpan_same n _
    refine ⟨?_, hspan, hothers _, rfl⟩
    rw [portRead_spExt_toNat, hspan]
    exact (Nat.toNat_testBit v.toNat 0).trans (by simp)

/-! ### A digit written by its two words (R34, R85) -/

/-- The number that the words x at LO and y at HI make. -/
def twoWords (x y : Word) : Nat := x.toNat + 2 ^ 32 * y.toNat

/-- R7: below W = 64 a digit lies in LO alone. -/
theorem Params.bits_le_of_ne {c : Params} (h : c.bits ≠ 64) : c.bits ≤ 32 := by
  revert h
  unfold Params.bits
  cases c.width <;> decide

/-- R34 at W < 64: LO holds the whole digit, so a write to it leaves nothing of the old one. -/
theorem withLo_mod_of_narrow {c : Params} (hw : c.bits ≠ 64) (v : Nat) (x y : Word) :
    withLo c v x % c.radix = twoWords x y % c.radix := by
  have hbits := Params.bits_le_of_ne hw
  have hdvd : c.radix ∣ 2 ^ 32 := pow_dvd_pow 2 hbits
  rw [withLo, min_eq_left hbits, ← Params.radix, twoWords, Nat.mul_add_mod_self_right, Nat.mod_mod, Nat.add_mod,
    Nat.mod_eq_zero_of_dvd (hdvd.mul_right _), Nat.add_zero, Nat.mod_mod]

/-- R34 at W = 64: a write to HI after one to LO. -/
theorem withHi_withLo {c : Params} (hw : c.bits = 64) (v : Nat) (x y : Word) :
    withHi (withLo c v x % c.radix) y % c.radix = twoWords x y % c.radix := by
  rw [withHi, withLo, twoWords, Params.radix, hw, min_eq_right (by decide)]
  omega

/-- R34 at W = 64: a write to LO after one to HI. -/
theorem withLo_withHi {c : Params} (hw : c.bits = 64) (v : Nat) (x y : Word) :
    withLo c (withHi v y % c.radix) x % c.radix = twoWords x y % c.radix := by
  rw [withHi, withLo, twoWords, Params.radix, hw, min_eq_right (by decide)]
  omega

theorem toDigit_congr {c : Params} {v w : Nat} (h : v % c.radix = w % c.radix) : toDigit c v = toDigit c w := by
  rw [toDigit, toDigit, h]

/-- R34: LO reads as the low 32 bits of the digit, at every W. -/
theorem loSlot_toNat (c : Params) {v : Nat} (hv : v < c.radix) : (loSlot c v).toNat = v % 2 ^ 32 := by
  have hlow : v % 2 ^ min c.bits 32 = v % 2 ^ 32 := by
    obtain hle | hle := le_total c.bits 32
    · rw [min_eq_left hle, Nat.mod_eq_of_lt (show v < 2 ^ c.bits from hv),
        Nat.mod_eq_of_lt (hv.trans_le (Nat.pow_le_pow_right (by decide) hle))]
    · rw [min_eq_right hle]
  rw [loSlot, BitVec.toNat_ofNat, hlow, Nat.mod_mod]

/-- R34: HI reads as the rest of the digit, which is 0 below W = 64. -/
theorem hiSlot_toNat (c : Params) {v : Nat} (hv : v < c.radix) : (hiSlot c v).toNat = v / 2 ^ 32 := by
  unfold hiSlot
  split
  · have hlt : v < 2 ^ 64 := hv.trans_le c.radix_le
    rw [BitVec.toNat_ofNat, Nat.mod_eq_of_lt (by omega)]
  · have hlt : v < 2 ^ 32 := hv.trans_le (Nat.pow_le_pow_right (by decide) (Params.bits_le_of_ne ‹_›))
    rw [Nat.div_eq_of_lt hlt]
    rfl

theorem Memory.store_store (m : Memory) (a : Nat) (d e : Digit) :
    Memory.store (Memory.store m a d) a e = Memory.store m a e := by
  induction m with
  | nil => simp [Memory.store]
  | cons x rest ih =>
    obtain ⟨b, f⟩ := x
    simp only [Memory.store]
    split
    · simp [Memory.store]
    · split
      · simp [Memory.store]
      · simp [Memory.store, *]

theorem State.writeDr_writeDr_same (s : State) (k : DigitReg) (v w : Nat) :
    (s.writeDr k v).writeDr k w = s.writeDr k w := by
  simp [State.writeDr]

theorem State.writeDigit_writeDigit_same (s : State) (a v w : Nat) :
    (s.writeDigit a v).writeDigit a w = s.writeDigit a w := by
  simp [State.writeDigit, Memory.store_store]

theorem State.writeDr_congr (s : State) (k : DigitReg) {v w : Nat} (h : v % s.cfg.radix = w % s.cfg.radix) :
    s.writeDr k v = s.writeDr k w := by
  rw [State.writeDr, toDigit_congr h, State.writeDr]

theorem State.writeDigit_congr (s : State) (a : Nat) {v w : Nat} (h : v % s.cfg.radix = w % s.cfg.radix) :
    s.writeDigit a v = s.writeDigit a w := by
  rw [State.writeDigit, toDigit_congr h, State.writeDigit]

/-- R34, R85: the two words of DRk, in either order, write the number they make. -/
theorem State.portWrite_drLo_drHi (s : State) (k : DigitReg) (x y : Word) :
    (s.portWrite (.drLo k) x).portWrite (.drHi k) y = s.writeDr k (twoWords x y) ∧
    (s.portWrite (.drHi k) y).portWrite (.drLo k) x = s.writeDr k (twoWords x y) := by
  by_cases hw : s.cfg.bits = 64
  · simp only [State.portWrite, State.writeDr_cfg, hw, if_true, State.readDr_writeDr_same, State.writeDr_writeDr_same]
    exact ⟨s.writeDr_congr k (withHi_withLo hw _ x y), s.writeDr_congr k (withLo_withHi hw _ x y)⟩
  · simp only [State.portWrite, State.writeDr_cfg, hw, if_false]
    exact ⟨s.writeDr_congr k (withLo_mod_of_narrow hw _ x y), s.writeDr_congr k (withLo_mod_of_narrow hw _ x y)⟩

/-- R34, R85: the same for a digit of DMEM. -/
theorem State.portWrite_dmemLo_dmemHi (s : State) (i : Nat) (x y : Word) :
    (s.portWrite (.dmemLo i) x).portWrite (.dmemHi i) y = s.writeDigit i (twoWords x y) ∧
    (s.portWrite (.dmemHi i) y).portWrite (.dmemLo i) x = s.writeDigit i (twoWords x y) := by
  by_cases hw : s.cfg.bits = 64
  · simp only [State.portWrite, State.writeDigit_cfg, hw, if_true, State.readDigit_writeDigit_same,
      State.writeDigit_writeDigit_same]
    exact ⟨s.writeDigit_congr i (withHi_withLo hw _ x y), s.writeDigit_congr i (withLo_withHi hw _ x y)⟩
  · simp only [State.portWrite, State.writeDigit_cfg, hw, if_false]
    exact ⟨s.writeDigit_congr i (withLo_mod_of_narrow hw _ x y), s.writeDigit_congr i (withLo_mod_of_narrow hw _ x y)⟩

/-- Settles O57: the two words are one write of the number they make. -/
theorem digitWrittenByTwoWords : Obligations.DigitWrittenByTwoWords := by
  intro s x y
  have hlt : twoWords x y % s.cfg.radix < s.cfg.radix := Nat.mod_lt _ s.cfg.radix_pos
  refine ⟨fun k => ?_, fun i => ?_⟩
  · obtain ⟨hlohi, hhilo⟩ := s.portWrite_drLo_drHi k x y
    have hread : (s.writeDr k (twoWords x y)).readDr k = twoWords x y % s.cfg.radix := s.readDr_writeDr_same k _
    simp only [hlohi, hhilo]
    refine ⟨trivial, hread, ?_, ?_, fun j hj => s.dr_writeDr_of_ne _ (by simpa using hj), rfl⟩
    · rw [State.portRead, hread]
      exact loSlot_toNat s.cfg hlt
    · rw [State.portRead, hread]
      exact hiSlot_toNat s.cfg hlt
  · obtain ⟨hlohi, hhilo⟩ := s.portWrite_dmemLo_dmemHi i x y
    have hread : (s.writeDigit i (twoWords x y)).readDigit i = twoWords x y % s.cfg.radix := s.readDigit_writeDigit_same i _
    simp only [hlohi, hhilo]
    refine ⟨trivial, hread, ?_, ?_, fun a ha => s.readDigit_writeDigit_of_ne _ ha, rfl⟩
    · rw [State.portRead, hread]
      exact loSlot_toNat s.cfg hlt
    · rw [State.portRead, hread]
      exact hiSlot_toNat s.cfg hlt

end Sys2Proof.Machine
end

section
/-! SUPPORT. Proofs of the statements about what reads DMEM and what a read leaves alone (20_memory). -/

namespace Sys2Proof.Machine

/-! ### A read by the host (R92, R95) -/

/-- Settles O56: the step serves the read, and serving it adds the word to the record. -/
theorem hostReadHasNoSideEffect : Obligations.HostReadHasNoSideEffect := by
  intro s addr hbase
  refine ⟨serve_read hbase, fun ev rest hidle hev hop => ?_⟩
  rw [step_serve hidle hev, hop]
  exact congrArg _ (serve_read (s := { s with events := rest }) hbase)

/-! ### What a command reads of DMEM (R86) -/

/-- The state with another DMEM. -/
def State.withDmem (s : State) (m : Memory) : State := { s with dmem := m }

@[simp] theorem State.span_withDmem (s : State) (m : Memory) (k : SpanReg) : (s.withDmem m).span k = s.span k := rfl

/-- Two states that differ in DMEM alone, and there outside the regions of the spans `ps` alone. -/
structure AgreeOn (ps : List Span) (s t : State) : Prop where
  sameButDmem : ∃ m, t = s.withDmem m
  sameDigits : ∀ p ∈ ps, ∀ a, p.covers a = true → t.readDigit a = s.readDigit a

section agreeOn
variable {ps : List Span} {s t : State} (h : AgreeOn ps s t)
include h

/-- The span's value is read from its region alone. -/
theorem AgreeOn.valu {p : Span} (hp : p ∈ ps) : t.valu p = s.valu p := by
  obtain ⟨⟨m, rfl⟩, hdigits⟩ := h
  exact State.valu_congr rfl rfl rfl (hdigits p hp)

theorem AgreeOn.val {p : Span} (hp : p ∈ ps) : t.val p = s.val p := by
  obtain ⟨m, rfl⟩ := h.sameButDmem
  rw [State.val, h.valu hp]
  rfl

/-- R253 item 6 reads the top digit of the divisor, which is in its region unless COUNT is 0, and then V = 0. -/
theorem AgreeOn.normalCheck {p : Span} (hp : p ∈ ps) : normalCheck t p = normalCheck s p := by
  unfold Machine.normalCheck
  obtain hempty | hsize := Nat.eq_zero_or_pos p.size
  · simp [State.valu, State.memRead, hempty]
  · rw [h.valu hp, h.sameDigits p hp _ ((p.covers_iff _).2 (by omega))]

/-- An update that reads and writes no DMEM keeps the agreement. -/
theorem AgreeOn.update {f : State → State} (hcomm : ∀ s m, f (s.withDmem m) = (f s).withDmem m)
    (hread : ∀ s a, (f s).readDigit a = s.readDigit a) : AgreeOn ps (f s) (f t) where
  sameButDmem := h.sameButDmem.imp fun m hm => by rw [hm, hcomm]
  sameDigits p hp a ha := by rw [hread, hread, h.sameDigits p hp a ha]

theorem AgreeOn.writeDr (k : DigitReg) (v : Nat) : AgreeOn ps (s.writeDr k v) (t.writeDr k v) :=
  h.update (f := (·.writeDr k v)) (fun _ _ => rfl) fun _ _ => rfl

theorem AgreeOn.complete (ovf : Bool) : AgreeOn ps (s.complete ovf) (t.complete ovf) :=
  h.update (f := (·.complete ovf)) (fun _ _ => rfl) fun _ _ => rfl

theorem AgreeOn.abort (c : Word) (code : ErrCode) : AgreeOn ps (s.abort c code) (t.abort c code) :=
  h.update (f := (·.abort c code)) (fun _ _ => rfl) fun _ _ => rfl

/-- One value written to the region of one span: inside it both states read that value, outside it nothing changed. -/
theorem AgreeOn.writeSpan (k : SpanReg) (v : Nat) (e : Bool) :
    AgreeOn ps (s.writeSpan k v e) (t.writeSpan k v e) := by
  obtain ⟨⟨m, rfl⟩, hdigits⟩ := h
  refine ⟨⟨_, rfl⟩, fun p hp a ha => ?_⟩
  cases hcov : (s.span k).covers a with
  | true =>
    obtain ⟨hle, hlt⟩ := (Span.covers_iff _ _).1 hcov
    obtain ⟨i, rfl⟩ := Nat.exists_eq_add_of_le hle
    rw [State.readDigit_writeSpan_eq, State.readDigit_writeSpan_eq, State.span_withDmem,
      State.readDigit_memWrite_inside _ _ _ _ _ (by omega), State.readDigit_memWrite_inside _ _ _ _ _ (by omega)]
    rfl
  | false =>
    rw [(s.withDmem m).readDigit_writeSpan_outside k v e hcov, s.readDigit_writeSpan_outside k v e hcov,
      hdigits p hp a ha]

theorem AgreeOn.writeBack (k : SpanReg) (range : Range) (r : Int) :
    AgreeOn ps (s.writeBack k range r) (t.writeBack k range r) := by
  obtain ⟨m, rfl⟩ := h.sameButDmem
  exact (h.writeSpan k _ _).complete _

theorem AgreeOn.writeWithCarry (k : SpanReg) (carry : DigitReg) (r : Nat) :
    AgreeOn ps (s.writeWithCarry k carry r) (t.writeWithCarry k carry r) := by
  obtain ⟨m, rfl⟩ := h.sameButDmem
  exact ((h.writeSpan k _ _).writeDr carry _).complete _

/-- Checks with the same outcome let both operations run or abort both commands. -/
theorem AgreeOn.checked {c : Word} {checks checks' : List (Bool × ErrCode)} {op : State → State}
    (hchecks : checks' = checks) (hop : AgreeOn ps (op s) (op t)) :
    AgreeOn ps (checked c checks op s) (checked c checks' op t) := by
  subst hchecks
  unfold Machine.checked
  split
  · exact hop
  · exact h.abort c _

end agreeOn

/-- R86: a command takes states that agree on the regions of its spans to states that agree there. -/
theorem exec_agreeOn (i : Instr) {s t : State} {ps : List Span} (h : AgreeOn ps s t)
    (hps : ∀ k ∈ i.destSpans ++ i.sourceSpans, s.span k ∈ ps) :
    ∃ u v, exec i s = .next u ∧ exec i t = .next v ∧ AgreeOn ps u v := by
  obtain ⟨m, rfl⟩ := h.sameButDmem
  have hvalu : ∀ k ∈ i.destSpans ++ i.sourceSpans, (s.withDmem m).valu ((s.withDmem m).span k) = s.valu (s.span k) :=
    fun k hk => h.valu (hps k hk)
  have hval : ∀ k ∈ i.destSpans ++ i.sourceSpans, (s.withDmem m).val ((s.withDmem m).span k) = s.val (s.span k) :=
    fun k hk => h.val (hps k hk)
  cases i with
  | nop => exact ⟨_, _, rfl, rfl, h.update (fun _ _ => rfl) fun _ _ => rfl⟩
  | clrf => exact ⟨_, _, rfl, rfl, h.update (f := (·.clearFlags.endCommand)) (fun _ _ => rfl) fun _ _ => rfl⟩
  | incd range sd d | decd range sd d | neg range sd =>
    refine ⟨_, _, rfl, rfl, h.checked rfl ?_⟩
    rw [hval sd (.head _)]
    exact h.writeBack sd range _
  | incs range sd sa | decs range sd sa =>
    refine ⟨_, _, rfl, rfl, h.checked rfl ?_⟩
    rw [hval sd (.head _), hval sa (.tail _ (.head _))]
    exact h.writeBack sd range _
  | macd sd sa m a carry =>
    refine ⟨_, _, rfl, rfl, h.checked rfl ?_⟩
    rw [hvalu sd (.head _), hvalu sa (.tail _ (.head _))]
    exact h.writeWithCarry sd carry _
  | muld sd m a carry =>
    refine ⟨_, _, rfl, rfl, h.checked rfl ?_⟩
    rw [hvalu sd (.head _)]
    exact h.writeWithCarry sd carry _
  | mulp x y _ _ | mulpa x y _ _ _ | divp x y _ _ _ =>
    exact ⟨_, _, rfl, rfl, h.checked rfl (((h.writeDr x _).writeDr y _).complete _)⟩
  | mul sd sa sb alg =>
    refine ⟨_, _, rfl, rfl, h.checked rfl ?_⟩
    rw [hvalu sa (.tail _ (.head _)), hvalu sb (.tail _ (.tail _ (.head _)))]
    exact (h.writeSpan sd _ _).complete _
  | sqr sd sa alg =>
    refine ⟨_, _, rfl, rfl, h.checked rfl ?_⟩
    rw [hvalu sa (.tail _ (.head _))]
    exact (h.writeSpan sd _ _).complete _
  | divd sd v r =>
    refine ⟨_, _, rfl, rfl, h.checked rfl ?_⟩
    simp only [hvalu sd (.head _)]
    exact ((h.writeSpan sd _ _).writeDr r _).complete _
  | remd sa v r =>
    refine ⟨_, _, rfl, rfl, h.checked rfl ?_⟩
    simp only [hvalu sa (.head _)]
    exact (h.writeDr r _).complete _
  | ldiv sq sr sa sb =>
    refine ⟨_, _, rfl, rfl, h.checked ?_ ?_⟩
    · rw [State.span_withDmem _ _ sb, h.normalCheck (hps sb (by simp [Instr.sourceSpans]))]
      rfl
    · simp only [hvalu sa (by simp [Instr.sourceSpans]), hvalu sb (by simp [Instr.sourceSpans])]
      exact ((h.writeSpan sq _ _).writeSpan sr _ _).complete _

/-- Settles O37: the two states agree on the regions of the command's spans, so what it leaves does too. -/
theorem commandsReadOnlyTheirSpans : Obligations.CommandsReadOnlyTheirSpans := by
  intro i s m hdigits
  have hagree : AgreeOn ((i.destSpans ++ i.sourceSpans).map s.span) s (s.withDmem m) :=
    ⟨⟨m, rfl⟩, List.forall_mem_map.2 hdigits⟩
  obtain ⟨t, t', ht, ht', hend⟩ := exec_agreeOn i hagree fun k hk => List.mem_map_of_mem hk
  refine ⟨t, t', ht, ht', ?_, fun k hk => hend.sameDigits _ (List.mem_map_of_mem (List.mem_append_left _ hk))⟩
  obtain ⟨m', rfl⟩ := hend.sameButDmem
  rfl

end Sys2Proof.Machine
end

section
/-! SUPPORT. Proofs of the statements about the command word and the pseudo-instructions (30_encoding). -/

namespace Sys2Proof

/-! ### The word of a command (R110, R112, R118) -/

/-- R110: what each field of a command word reads back as. -/
theorem commandWord_fields (opc s : Nat) (a b c d e f g : Fin 8) (ho : opc < 64) (hs : s < 2) :
    let w := commandWord opc s a b c d e f g
    Word.opc w = opc ∧ Word.sBit w = s ∧ Word.fA w = a ∧ Word.fB w = b ∧ Word.fC w = c ∧ Word.fD w = d ∧
      Word.fE w = e ∧ Word.fF w = f ∧ Word.fG w = g ∧ Word.rsv w = 0 :=
  ⟨opc_commandWord _ _ _ _ _ _ _ _ _ ho hs, sBit_commandWord _ _ _ _ _ _ _ _ _ ho hs,
    fA_commandWord _ _ _ _ _ _ _ _ _ ho hs, fB_commandWord _ _ _ _ _ _ _ _ _ ho hs,
    fC_commandWord _ _ _ _ _ _ _ _ _ ho hs, fD_commandWord _ _ _ _ _ _ _ _ _ ho hs,
    fE_commandWord _ _ _ _ _ _ _ _ _ ho hs, fF_commandWord _ _ _ _ _ _ _ _ _ ho hs,
    fG_commandWord _ _ _ _ _ _ _ _ _ ho hs, rsv_commandWord _ _ _ _ _ _ _ _ _ ho hs⟩

/-- R114: the range written to S is the range read. -/
theorem range_commandWord (opc : Nat) (r : Range) (a b c d e f g : Fin 8) (ho : opc < 64) :
    Word.range (commandWord opc r.bit a b c d e f g) = r :=
  range_of_sBit (sBit_commandWord _ _ _ _ _ _ _ _ _ ho r.bit_lt)

open Laws.EncodedOpcode in
/-- R115, R118: the constructors' laws as one. -/
theorem opc_rsv_encode (i : Instr) : Word.opc (encode i) = i.opcode ∧ Word.rsv (encode i) = 0 := by
  cases i
  exacts [nop, clrf, incd _ _ _, decd _ _ _, incs _ _ _, decs _ _ _, neg _ _, macd _ _ _ _ _, mulp _ _ _ _,
    mulpa _ _ _ _ _, muld _ _ _ _, mul _ _ _ _, sqr _ _ _, divp _ _ _ _ _, divd _ _ _, remd _ _ _, ldiv _ _ _ _]

/-- R118: an opcode has 6 bits. -/
theorem Instr.opcode_lt (i : Instr) : i.opcode < 64 := by cases i <;> simp [Instr.opcode]

/-- R114: S is 0 outside the adder commands that take it. -/
theorem sBit_encode {i : Instr} (h : i.opcode ∉ [0x08, 0x09, 0x0A, 0x0B, 0x0C]) : Word.sBit (encode i) = 0 := by
  cases i with
  | incd | decd | incs | decs | neg => exact absurd (by simp [Instr.opcode]) h
  | _ => exact sBit_commandWord _ _ _ _ _ _ _ _ _ (Instr.opcode_lt _) (by decide)

/-- R116: field E of a well-formed MUL or SQR is a legal ALG. -/
theorem fE_encode_le {i : Instr} (hop : i.opcode ∈ [0x13, 0x14]) (hwf : i.wellFormed = true) :
    (Word.fE (encode i)).val ≤ 2 := by
  cases i with
  | mul | sqr =>
    rw [encode, fE_commandWord _ _ _ _ _ _ _ _ _ (Instr.opcode_lt _) (by decide)]
    exact of_decide_eq_true hwf
  | _ => simp [Instr.opcode] at hop

/-! ### Decoding and encoding are inverse (R122) -/

/-- A command's word is in its own row, and meets the row's conditions exactly when the command is well-formed. -/
theorem decode_encode (i : Instr) : decode (encode i) = legal i.wellFormed i := by
  cases i with
  | incd range | decd range | incs range | decs range | neg range =>
    simp [encode, decode, Instr.opcode, Instr.wellFormed, commandWord_fields, range_commandWord, range.bit_lt]
  | mul sd sa sb alg | sqr sd sa alg =>
    simp [encode, decode, Instr.opcode, Instr.wellFormed, AlgField.legal, commandWord_fields]
  | _ => simp [encode, decode, Instr.opcode, Instr.wellFormed, commandWord_fields]

/-- Settles O1: the word is in the row of its command, whose conditions it meets. -/
theorem decodeOfEncode : Obligations.DecodeOfEncode := by
  intro i hwf
  rw [decode_encode, hwf]
  rfl

/-- Settles O2: the row's conditions leave no bit of the word open, so it is the word of its own fields. -/
theorem encodeOfDecode : Obligations.EncodeOfDecode := by
  intro w i h
  unfold decode at h
  split at h
  case h_18 => cases h
  all_goals
    obtain ⟨hfields, rfl⟩ := legal_ok h
    simp only [decide_eq_true_eq] at hfields
    refine ⟨by simp [Instr.wellFormed, AlgField.legal, hfields], ?_⟩
    refine Eq.trans ?_ (commandWord_of_fields w (by simp [hfields]))
    rename_i hopc
    simp [encode, Instr.opcode, bit_range, hopc, hfields]

/-! ### Which words are rejected (R113 to R116, R119) -/

/-- A row answers its command or RESERVED_FIELD. -/
theorem legal_cases (ok : Bool) (i : Instr) : legal ok i = .ok i ∨ legal ok i = .error .reservedField := by
  cases ok
  · exact .inr rfl
  · exact .inl rfl

/-- R122: a word with an opcode of the map decodes or is RESERVED_FIELD. -/
theorem decode_cases_of_opc_mem {w : Word} (h : Word.opc w ∈ [0x00, 0x01, 0x08, 0x09, 0x0A, 0x0B, 0x0C, 0x0D, 0x10, 0x11,
    0x12, 0x13, 0x14, 0x18, 0x19, 0x1A, 0x1B]) : (∃ i, decode w = .ok i) ∨ decode w = .error .reservedField := by
  have hrow : ∃ ok i, decode w = legal ok i := by
    simp only [List.mem_cons, List.not_mem_nil, or_false] at h
    obtain h | h | h | h | h | h | h | h | h | h | h | h | h | h | h | h | h := h
    exacts [⟨_, _, decode_nop h⟩, ⟨_, _, decode_clrf h⟩, ⟨_, _, decode_incd h⟩, ⟨_, _, decode_decd h⟩,
      ⟨_, _, decode_incs h⟩, ⟨_, _, decode_decs h⟩, ⟨_, _, decode_neg h⟩, ⟨_, _, decode_macd h⟩, ⟨_, _, decode_mulp h⟩,
      ⟨_, _, decode_mulpa h⟩, ⟨_, _, decode_muld h⟩, ⟨_, _, decode_mul h⟩, ⟨_, _, decode_sqr h⟩, ⟨_, _, decode_divp h⟩,
      ⟨_, _, decode_divd h⟩, ⟨_, _, decode_remd h⟩, ⟨_, _, decode_ldiv h⟩]
  obtain ⟨ok, i, hrow⟩ := hrow
  exact (legal_cases ok i).imp (fun hok => ⟨i, hrow.trans hok⟩) hrow.trans

/-- Settles O3: with an opcode of the map a word decodes or is RESERVED_FIELD, and a word that the clauses name is no
well-formed command's word, so by O2 it does not decode. -/
theorem decodeRejectsByName : Obligations.DecodeRejectsByName := by
  intro w legalOpcodes
  have hnoCommand : Word.opc w ∈ legalOpcodes → (∀ i : Instr, i.wellFormed = true → encode i ≠ w) →
      decode w = .error .reservedField := by
    intro hop hno
    obtain ⟨i, hok⟩ | herr := decode_cases_of_opc_mem hop
    · obtain ⟨hwf, henc⟩ := encodeOfDecode w i hok
      exact absurd henc (hno i hwf)
    · exact herr
  refine ⟨⟨decode_illegal, fun hdec hop => ?_⟩, fun hop hrsv => hnoCommand hop ?_, fun hop hs hadder => hnoCommand hop ?_,
    fun hop halg => hnoCommand ?_ ?_, hnoCommand⟩
  · obtain ⟨i, hok⟩ | herr := decode_cases_of_opc_mem hop
    · simp [hok] at hdec
    · simp [herr] at hdec
  · rintro i - rfl
    exact hrsv (opc_rsv_encode i).2
  · rintro i - rfl
    rw [(opc_rsv_encode i).1] at hadder
    simp [sBit_encode hadder] at hs
  · exact (by decide : [0x13, 0x14] ⊆ legalOpcodes) hop
  · rintro i hwf rfl
    rw [(opc_rsv_encode i).1] at hop
    have := fE_encode_le hop hwf
    omega

/-- Settles O4: the 18 rows of the table, each by running the decoder, the encoder and the assembler. -/
theorem decodeOfExampleWords : Obligations.DecodeOfExampleWords := by
  unfold Obligations.DecodeOfExampleWords
  decide

end Sys2Proof

namespace Sys2Proof.Machine

/-- Settles O42: the engine is next, and its abort is R303's with the code of the rejection. -/
theorem stepAbortsUndecodableWord : Obligations.StepAbortsUndecodableWord := by
  intro s c e hcmd herr hdec hnext
  rw [step_engine hcmd hnext, runCommand_error herr hdec, abort_eq]
  cases e <;> rfl

/-! ### The pseudo-instructions CHK.U and CHK.S (R124) -/

/-- R172: INCD with its two checks passed. -/
theorem exec_incd_of_fits {s : State} (range : Range) {sd : SpanReg} (d : DigitReg) (hfit : s.Fits sd)
    (hcount : 1 ≤ s.count sd) :
    exec (.incd range sd d) s = .next (s.writeBack sd range (s.valOf sd + s.readDr d)) := by
  change execIncd range sd d s = _
  rw [execIncd, destinationChecks, checked_range, if_pos (by simpa using hfit), checked_count, if_pos hcount, checked_nil]

/-- R37: a span's value and its unsigned magnitude are the same digits. -/
theorem State.val_emod_modulus (s : State) (p : Span) : s.val p % (p.modulus s.cfg : Int) = s.valu p := by
  have hlt : (s.valu p : Int) < p.modulus s.cfg := by exact_mod_cast s.valu_lt p
  have hself : (s.valu p : Int) % p.modulus s.cfg = s.valu p := Int.emod_eq_of_lt (by omega) hlt
  unfold State.val
  split
  · rw [Int.sub_emod_right, hself]
  · exact hself

/-- A value is below B^n, whatever its EXT. -/
theorem State.val_lt (s : State) (p : Span) : s.val p < p.modulus s.cfg := by
  have hlt := s.valu_lt p
  unfold State.val
  split <;> omega

/-- R124: what CHK leaves is its span's own value written back. -/
theorem chk_wroteBack {s t : State} {range : Range} {sd : SpanReg} {z : DigitReg} (hfit : s.Fits sd)
    (hcount : 1 ≤ s.count sd) (hz : s.readDr z = 0) (hexec : exec (Pseudo.chk range sd z).expand s = .next t) :
    WroteBack s t sd range (s.valOf sd) := by
  rw [Pseudo.expand, exec_incd_of_fits range z hfit hcount, hz, Nat.cast_zero, add_zero] at hexec
  obtain rfl : s.writeBack sd range (s.valOf sd) = t := by simpa using hexec
  exact writeBack_spec s sd range (s.valOf sd)

/-- Settles O26: CHK writes back val(sd), which is below B^n and has the digits of valu(sd). -/
theorem checkPseudosRecheckRange : Obligations.CheckPseudosRecheckRange := by
  intro s t sd z hfit hcount hz
  have hmod : ((s.cfg.radix ^ s.count sd : Nat) : Int) = (s.cfg.radix : Int) ^ s.count sd := Nat.cast_pow _ _
  have hlt : s.valOf sd < ((s.cfg.radix ^ s.count sd : Nat) : Int) := s.val_lt (s.span sd)
  refine ⟨fun hexec => ?_, fun hexec => ?_⟩
  · obtain ⟨-, -, ⟨-, -, hovf, -⟩, -⟩ := chk_wroteBack hfit hcount hz hexec
    rw [hovf, ← hmod, decide_eq_true_iff]
    omega
  · obtain ⟨hval, hspan, ⟨-, -, hovf, -⟩, -⟩ := chk_wroteBack hfit hcount hz hexec
    refine ⟨fun hext => ?_, ?_⟩
    · have hpos : s.valOf sd = s.valuOf sd := by simp [State.val, hext]
      rw [hovf, ← hmod, decide_eq_true_iff, hpos]
      omega
    · have hdigits : t.valu (s.span sd) = s.valuOf sd := by
        rw [← hmod] at hval
        exact_mod_cast hval.trans (s.val_emod_modulus (s.span sd))
      rw [State.extBit, hspan, ← hdigits]

end Sys2Proof.Machine
end

section
/-! SUPPORT. Proofs of the statements about the overflow flags, NOP and CLRF (40_overflow_flags). -/

namespace Sys2Proof.Machine

/-! ### STICKY along completing commands (R150, R157) -/

/-- R302, R150: a command other than NOP and CLRF runs its checks, and its operation ends in `complete` after updates
that leave STICKY alone. -/
theorem exec_eq_checked_complete {i : Instr} (s : State) (hnop : i ≠ .nop) (hclrf : i ≠ .clrf) :
    ∃ checks op, exec i s = .next (checked (encode i) checks op s) ∧
      ∃ (u : State) (ovf : Bool), op s = u.complete ovf ∧ u.sticky = s.sticky := by
  cases i with
  | nop => exact absurd rfl hnop
  | clrf => exact absurd rfl hclrf
  | _ => exact ⟨_, _, rfl, _, _, rfl, rfl⟩

/-- R150, R155: one completing command ORs the OVF it leaves into STICKY, and NOP keeps STICKY. -/
theorem sticky_of_exec {i : Instr} {s t : State} (hexec : exec i s = .next t) (herr : t.err = false) (hclrf : i ≠ .clrf) :
    t.sticky = (s.sticky || (decide (i ≠ .nop) && t.ovf)) := by
  by_cases hnop : i = .nop
  · subst hnop
    obtain rfl : s.endCommand = t := Host.Outcome.next.inj hexec
    simp
  · obtain ⟨checks, op, hchecked, u, ovf, hop, hsticky⟩ := exec_eq_checked_complete s hnop hclrf
    obtain rfl : checked (encode i) checks op s = t := Host.Outcome.next.inj (hchecked.symm.trans hexec)
    obtain ⟨-, heq⟩ | ⟨code, -, -, heq⟩ := checked_cases (encode i) checks op s
    · simp [heq, hop, hsticky, hnop]
    · simp [heq] at herr

/-- Settles O39, by induction on the sequence: each command ORs its own OVF into STICKY. -/
theorem stickyIsOrOfOverflows : Obligations.StickyIsOrOfOverflows := by
  intro s l _ hrun hclrf
  induction l generalizing s with
  | nil => simp
  | cons x rest ih =>
    obtain ⟨i, t⟩ := x
    obtain ⟨hexec, herr, hrest⟩ := hrun
    obtain ⟨hi, hclrf⟩ := List.forall_mem_cons.1 hclrf
    calc (((i, t) :: rest).map Prod.snd |>.getLastD s).sticky
      _ = ((rest.map Prod.snd).getLastD t).sticky := by rw [List.map_cons, List.getLastD_cons]
      _ = (t.sticky || rest.any fun x => decide (x.1 ≠ .nop) && x.2.ovf) := ih t herr hrest hclrf
      _ = (s.sticky || ((i, t) :: rest).any fun x => decide (x.1 ≠ .nop) && x.2.ovf) := by
        rw [sticky_of_exec hexec herr hi, List.any_cons, Bool.or_assoc]

/-! ### NOP and CLRF (R155, R156) -/

/-- R113, R122: a word whose row has the well-formed command `i` is that command's one word, or is RESERVED_FIELD. -/
theorem decode_of_row {w : Word} {ok : Bool} {i : Instr} (hrow : decode w = legal ok i) (hwf : i.wellFormed = true) :
    decode w = if w = encode i then .ok i else .error .reservedField := by
  split
  case isTrue hw => rw [hw, decodeOfEncode i hwf]
  case isFalse hw =>
    obtain hok | herr := legal_cases ok i
    · exact absurd (encodeOfDecode w i (hrow.trans hok)).2.symm hw
    · exact hrow.trans herr

/-- R304: while the error is latched, the step ends the command in flight and does nothing else. -/
theorem step_latched {s : State} {c : Word} (hcmd : s.inFlight = some c) (herr : s.err = true) (hnext : s.EngineNext) :
    step s = .next s.endCommand :=
  (step_engine hcmd hnext).trans (runCommand_latched c herr)

/-- R118: NOP's word. -/
theorem encode_nop : encode .nop = 0x00000000 := by decide

/-- R118: CLRF's word. -/
theorem encode_clrf : encode .clrf = 0x04000000 := by decide

/-- Settles O5: its row of the decoder has one word, and `exec` and a discard both are `endCommand`. -/
theorem nopOnlyEnds : Obligations.NopOnlyEnds :=
  fun _ => ⟨fun _ hopc => encode_nop ▸ decode_of_row (decode_nop hopc) rfl, rfl, step_latched⟩

/-- Settles O6: its row of the decoder has one word, `exec` clears the flags before `endCommand`, and a discard is
`endCommand` alone. -/
theorem clrfClearsOverflowFlags : Obligations.ClrfClearsOverflowFlags :=
  fun _ => ⟨fun _ hopc => encode_clrf ▸ decode_of_row (decode_clrf hopc) rfl, rfl, step_latched⟩

end Sys2Proof.Machine
end

section
/-! SUPPORT. Proofs of the statements about the adder commands (41_adder). -/

namespace Sys2Proof.Machine

/-! ### The checks of the adder commands, in the order of R302 (R171) -/

section adderChecks
variable (c : Word) (op : State → State) (s : State) (sd sa : SpanReg)

/-- R171 items 1 and 2: the checks of INCD, DECD and NEG. -/
theorem checked_destination :
    checked c (destinationChecks s (s.span sd)) op s =
      if s.Fits sd then if 1 ≤ s.count sd then op s else s.abort c .count else s.abort c .spanRange := by
  rw [destinationChecks, checked_range, checked_count, checked_nil]
  exact if_congr (by simp) rfl rfl

/-- R171 items 1, 2 and 4: the checks of INCS and DECS. -/
theorem checked_spanPair [Decidable (s.MayShare sa sd)] :
    checked c (spanPairChecks s (s.span sd) (s.span sa)) op s =
      if s.Fits sd ∧ s.Fits sa then
        if 1 ≤ s.count sd then if s.MayShare sa sd then op s else s.abort c .overlap else s.abort c .count
      else s.abort c .spanRange := by
  rw [spanPairChecks, checked_range, checked_count, checked_overlap, checked_nil]
  exact if_congr (by simp) (if_congr Iff.rfl (if_congr (Span.shareable_iff _ _) rfl rfl) rfl) rfl

/-- R171 items 1 to 4: the checks of MACD. -/
theorem checked_macd [Decidable (s.MayShare sa sd)] :
    checked c (macdChecks s (s.span sd) (s.span sa)) op s =
      if s.Fits sd ∧ s.Fits sa then
        if 1 ≤ s.count sd ∧ s.count sa ≤ s.count sd then
          if s.extBit sd = false ∧ s.extBit sa = false then
            if s.MayShare sa sd then op s else s.abort c .overlap
          else s.abort c .ext
        else s.abort c .count
      else s.abort c .spanRange := by
  rw [macdChecks, checked_range, checked_count, checked_ext, checked_overlap, checked_nil]
  exact if_congr (by simp)
    (if_congr Iff.rfl (if_congr (by simp) (if_congr (Span.shareable_iff _ _) rfl rfl) rfl) rfl) rfl

end adderChecks

/-! ### Commands that write back to one span (R170, R172 to R176) -/

/-- R172, R173, R176: a command that writes back the value `r` behind the checks of its destination. -/
theorem destinationCommand_spec {i : Instr} {s : State} {sd : SpanReg} {range : Range} (r : State → Int)
    (hexec : exec i s = .next
      (checked (encode i) (destinationChecks s (s.span sd)) (fun s => s.writeBack sd range (r s)) s)) :
    (¬ s.Fits sd → AbortsWith i s .spanRange) ∧
    (s.Fits sd → s.count sd = 0 → AbortsWith i s .count) ∧
    (s.Fits sd → 1 ≤ s.count sd → ∃ t, exec i s = .next t ∧ WroteBack s t sd range (r s)) := by
  rw [checked_destination] at hexec
  refine ⟨fun hfit => ?_, fun hfit hcount => ?_, fun hfit hcount => ?_⟩
  · rw [AbortsWith, hexec, if_neg hfit, abort_eq]
  · rw [AbortsWith, hexec, if_pos hfit, if_neg (by omega), abort_eq]
  · rw [if_pos hfit, if_pos hcount] at hexec
    exact ⟨_, hexec, writeBack_spec s sd range (r s)⟩

/-- R174, R175: a command that writes back the value `r` behind the checks of its destination and its source. -/
theorem spanPairCommand_spec {i : Instr} {s : State} {sd sa : SpanReg} {range : Range} (r : State → Int)
    (hexec : exec i s = .next
      (checked (encode i) (spanPairChecks s (s.span sd) (s.span sa)) (fun s => s.writeBack sd range (r s)) s)) :
    (¬ (s.Fits sd ∧ s.Fits sa) → AbortsWith i s .spanRange) ∧
    (s.Fits sd → s.Fits sa → s.count sd = 0 → AbortsWith i s .count) ∧
    (s.Fits sd → s.Fits sa → 1 ≤ s.count sd → ¬ s.MayShare sa sd → AbortsWith i s .overlap) ∧
    (s.Fits sd → s.Fits sa → 1 ≤ s.count sd → s.MayShare sa sd →
      ∃ t, exec i s = .next t ∧ WroteBack s t sd range (r s)) := by
  classical
  rw [checked_spanPair] at hexec
  refine ⟨fun hfits => ?_, fun hd ha hcount => ?_, fun hd ha hcount hshare => ?_, fun hd ha hcount hshare => ?_⟩
  · rw [AbortsWith, hexec, if_neg hfits, abort_eq]
  · rw [AbortsWith, hexec, if_pos ⟨hd, ha⟩, if_neg (by omega), abort_eq]
  · rw [AbortsWith, hexec, if_pos ⟨hd, ha⟩, if_pos hcount, if_neg hshare, abort_eq]
  · rw [if_pos ⟨hd, ha⟩, if_pos hcount, if_pos hshare] at hexec
    exact ⟨_, hexec, writeBack_spec s sd range (r s)⟩

/-- Settles O7: INCD writes back val(sd) + DR[d] behind the checks of its destination. -/
theorem incdAddsDigitToSpan : Obligations.IncdAddsDigitToSpan :=
  fun _ sd d _ => ⟨rfl, destinationCommand_spec (fun s => s.valOf sd + s.readDr d) rfl⟩

/-- Settles O8: DECD writes back val(sd) - DR[d] behind the checks of its destination. -/
theorem decdSubtractsDigitFromSpan : Obligations.DecdSubtractsDigitFromSpan :=
  fun _ sd d _ => ⟨rfl, destinationCommand_spec (fun s => s.valOf sd - s.readDr d) rfl⟩

/-- Settles O9: INCS writes back val(sd) + val(sa) behind the checks of its two spans. -/
theorem incsAddsSpanToSpan : Obligations.IncsAddsSpanToSpan :=
  fun _ sd sa _ => ⟨rfl, spanPairCommand_spec (fun s => s.valOf sd + s.valOf sa) rfl⟩

/-- Settles O10: DECS writes back val(sd) - val(sa) behind the checks of its two spans. -/
theorem decsSubtractsSpanFromSpan : Obligations.DecsSubtractsSpanFromSpan :=
  fun _ sd sa _ => ⟨rfl, spanPairCommand_spec (fun s => s.valOf sd - s.valOf sa) rfl⟩

/-- Settles O11: NEG writes back -val(sd) behind the checks of its destination. -/
theorem negNegatesSpan : Obligations.NegNegatesSpan :=
  fun _ sd _ => ⟨rfl, destinationCommand_spec (fun s => -s.valOf sd) rfl⟩

/-! ### The magnitude of a negative value (R176, R258) -/

/-- R37: the negation of a span's value with EXT 1 is what its digits lack to B^n. -/
theorem State.neg_val_of_ext (s : State) {p : Span} (hext : p.ext = true) :
    -s.val p = (p.modulus s.cfg : Int) - s.valu p := by
  rw [State.val, if_pos hext, neg_sub]

/-- Settles O25: the top bit is set, so valu(sd) is not 0 and -val(sd) = B^n - valu(sd) is in range. -/
theorem negUnsignedGivesMagnitude : Obligations.NegUnsignedGivesMagnitude := by
  intro s sd hfit hcount hext htop
  obtain ⟨-, -, -, hcompletes⟩ := negNegatesSpan .unsigned sd s
  obtain ⟨t, hexec, hval, hspan, ⟨-, -, hovf, -⟩, -⟩ := hcompletes hfit hcount
  have hmod : (s.cfg.radix : Int) ^ s.count sd = (s.span sd).modulus s.cfg := (Nat.cast_pow _ _).symm
  have hneg : -s.valOf sd = ((s.span sd).modulus s.cfg : Int) - s.valuOf sd := s.neg_val_of_ext hext
  have hlt : s.valuOf sd < (s.span sd).modulus s.cfg := s.valu_lt _
  have hne : s.valuOf sd ≠ 0 := fun h => by simp [h] at htop
  refine ⟨t, hexec, ?_, congrArg Span.ext hspan, ?_⟩
  · rw [State.valuOf, hspan, State.valu_withExt, hval, hmod]
    exact Int.emod_eq_of_lt (by omega) (by omega)
  · rw [hovf, hmod, decide_eq_false_iff_not, not_not]
    omega

/-! ### Multiply-accumulate (R177) -/

/-- R177: the carry out of `x + y * u + v` over the modulus `m` is a digit. -/
theorem mac_div_lt {m b x y u v : Nat} (hx : x < m) (hy : y < m) (hu : u < b) (hv : v < b) :
    (x + y * u + v) / m < b := by
  rw [Nat.div_lt_iff_lt_mul (by omega)]
  obtain ⟨b, rfl⟩ : ∃ b', b = b' + 1 := ⟨b - 1, by omega⟩
  obtain ⟨m, rfl⟩ : ∃ m', m = m' + 1 := ⟨m - 1, by omega⟩
  calc x + y * u + v
    _ ≤ m + m * b + b := by gcongr <;> omega
    _ < (b + 1) * (m + 1) := by linarith

/-- R177: MACD's exact result leaves a carry that fits a digit when the source is not longer than the destination. -/
theorem State.macd_carry_lt (s : State) {sd sa : SpanReg} (m a : DigitReg) (hcount : s.count sa ≤ s.count sd) :
    (s.valuOf sd + s.valuOf sa * s.readDr m + s.readDr a) / (s.span sd).modulus s.cfg < s.cfg.radix :=
  mac_div_lt (s.valu_lt _) ((s.valu_lt _).trans_le (Nat.pow_le_pow_right s.cfg.radix_pos hcount)) (s.readDr_lt m)
    (s.readDr_lt a)

/-- Settles O12: MACD's checks in their order, then the end it shares with MULD, whose carry is a digit. -/
theorem macdMultipliesAndAccumulates : Obligations.MacdMultipliesAndAccumulates := by
  classical
  intro sd sa m a carry s i n r c
  have hexec : exec i s = .next (checked (encode i) (macdChecks s (s.span sd) (s.span sa)) _ s) := rfl
  rw [checked_macd] at hexec
  refine ⟨rfl, fun hfits => ?_, fun hd ha hcount => ?_, fun hd ha hpos hle hext => ?_,
    fun hd ha hpos hle hxd hxa hshare => ?_, fun hd ha hpos hle hxd hxa hshare => ?_⟩
  · rw [AbortsWith, hexec, if_neg hfits, abort_eq]
  · rw [AbortsWith, hexec, if_pos ⟨hd, ha⟩, if_neg hcount, abort_eq]
  · rw [AbortsWith, hexec, if_pos ⟨hd, ha⟩, if_pos ⟨hpos, hle⟩, if_neg hext, abort_eq]
  · rw [AbortsWith, hexec, if_pos ⟨hd, ha⟩, if_pos ⟨hpos, hle⟩, if_pos ⟨hxd, hxa⟩, if_neg hshare, abort_eq]
  · rw [if_pos ⟨hd, ha⟩, if_pos ⟨hpos, hle⟩, if_pos ⟨hxd, hxa⟩, if_pos hshare] at hexec
    have hcarry : c < s.cfg.radix := s.macd_carry_lt m a hle
    exact ⟨hcarry, _, hexec, writeWithCarry_spec s sd carry r hcarry⟩

end Sys2Proof.Machine
end

section
/-! SUPPORT. Proofs of the statements about the multiply commands and the engine's multiplication (42_multiply). -/

namespace Sys2Proof.Machine

/-! ### The checks of the multiply commands, in the order of R302 (R212 to R214) -/

section multiplyChecks
variable (c : Word) (op : State → State) (s : State) (sd sa sb : SpanReg)

/-- R212: the checks of MULD, which DIVD and REMD share. -/
theorem checked_magnitude :
    checked c (magnitudeChecks s (s.span sd)) op s =
      if s.Fits sd then
        if 1 ≤ s.count sd then if s.extBit sd = false then op s else s.abort c .ext else s.abort c .count
      else s.abort c .spanRange := by
  rw [magnitudeChecks, checked_range, checked_count, checked_ext, checked_nil]
  exact if_congr (by simp) (if_congr Iff.rfl (if_congr (by simp) rfl rfl) rfl) rfl

/-- R213: the checks of MUL. -/
theorem checked_mul [Decidable (¬ s.Overlaps sd sa ∧ ¬ s.Overlaps sd sb)] :
    checked c (mulChecks s (s.span sd) (s.span sa) (s.span sb)) op s =
      if s.Fits sd ∧ s.Fits sa ∧ s.Fits sb then
        if 1 ≤ s.count sa ∧ 1 ≤ s.count sb ∧ s.count sd = s.count sa + s.count sb then
          if s.extBit sa = false ∧ s.extBit sb = false then
            if ¬ s.Overlaps sd sa ∧ ¬ s.Overlaps sd sb then op s else s.abort c .overlap
          else s.abort c .ext
        else s.abort c .count
      else s.abort c .spanRange := by
  rw [mulChecks, checked_range, checked_count, checked_ext, checked_overlap, checked_nil]
  exact if_congr (by simp)
    (if_congr Iff.rfl (if_congr (by simp) (if_congr (by simp [Span.disjoint_iff]) rfl rfl) rfl) rfl) rfl

/-- R214: the checks of SQR. -/
theorem checked_sqr [Decidable (¬ s.Overlaps sd sa)] :
    checked c (sqrChecks s (s.span sd) (s.span sa)) op s =
      if s.Fits sd ∧ s.Fits sa then
        if 1 ≤ s.count sa ∧ s.count sd = 2 * s.count sa then
          if s.extBit sa = false then if ¬ s.Overlaps sd sa then op s else s.abort c .overlap else s.abort c .ext
        else s.abort c .count
      else s.abort c .spanRange := by
  rw [sqrChecks, checked_range, checked_count, checked_ext, checked_overlap, checked_nil]
  exact if_congr (by simp)
    (if_congr Iff.rfl (if_congr (by simp) (if_congr (Span.disjoint_iff _ _) rfl rfl) rfl) rfl) rfl

end multiplyChecks

/-! ### Digit by digit (R210, R211) -/

/-- R210, R211: a command that leaves the digit pair of `p` in its two output registers. -/
theorem pairCommand_spec {i : Instr} {s : State} {lo hi : DigitReg} (p : State → Nat)
    (hp : p s / s.cfg.radix < s.cfg.radix)
    (hexec : exec i s = .next (checked (encode i) (outputChecks lo hi)
      (fun s => State.complete ((s.writeDr lo (p s % s.cfg.radix)).writeDr hi (p s / s.cfg.radix)) false) s)) :
    (lo = hi → AbortsWith i s .overlap) ∧
    (lo ≠ hi → ∃ t, exec i s = .next t ∧ t.readDr lo = p s % s.cfg.radix ∧ t.readDr hi = p s / s.cfg.radix ∧
      Completed s t false ∧ t.dmem = s.dmem ∧ t.sp = s.sp ∧ DrsSameBut s t [lo, hi]) := by
  rw [checked_outputs] at hexec
  refine ⟨fun heq => ?_, fun hne => ?_⟩
  · rw [AbortsWith, hexec, if_pos heq, abort_eq]
  · rw [if_neg hne] at hexec
    exact ⟨_, hexec, completePair_spec s _ _ false hne (Nat.mod_lt _ s.cfg.radix_pos) hp⟩

/-- R211, R212: a product with a digit, plus a digit, leaves a carry that fits a digit. -/
theorem mul_add_div_lt {m b y u v : Nat} (hy : y < m) (hu : u < b) (hv : v < b) : (y * u + v) / m < b := by
  simpa using mac_div_lt (y.zero_le.trans_lt hy) hy hu hv

/-- Settles O13: the high digit of a product of two digits is a digit. -/
theorem mulpGivesExactPair : Obligations.MulpGivesExactPair :=
  fun _ _ x y s => ⟨rfl, pairCommand_spec (fun s => s.readDr x * s.readDr y)
    (mul_add_div_lt (s.readDr_lt x) (s.readDr_lt y) s.cfg.radix_pos) rfl⟩

/-- Settles O14: the high digit of a product of two digits plus a digit is a digit. -/
theorem mulpaGivesExactPair : Obligations.MulpaGivesExactPair :=
  fun _ _ x y z s => ⟨rfl, pairCommand_spec (fun s => s.readDr x * s.readDr y + s.readDr z)
    (mul_add_div_lt (s.readDr_lt x) (s.readDr_lt y) (s.readDr_lt z)) rfl⟩

/-! ### Span by digit (R212) -/

/-- Settles O15: MULD's checks in their order, then the end it shares with MACD, whose carry is a digit. -/
theorem muldMultipliesSpanByDigit : Obligations.MuldMultipliesSpanByDigit := by
  intro sd m a carry s i n r c
  have hexec : exec i s = .next (checked (encode i) (magnitudeChecks s (s.span sd)) _ s) := rfl
  rw [checked_magnitude] at hexec
  refine ⟨rfl, fun hfit => ?_, fun hfit hcount => ?_, fun hfit hcount hext => ?_, fun hfit hcount hext => ?_⟩
  · rw [AbortsWith, hexec, if_neg hfit, abort_eq]
  · rw [AbortsWith, hexec, if_pos hfit, if_neg (by omega), abort_eq]
  · rw [AbortsWith, hexec, if_pos hfit, if_pos hcount, if_neg (by simp [hext]), abort_eq]
  · rw [if_pos hfit, if_pos hcount, if_pos hext] at hexec
    have hcarry : c < s.cfg.radix := mul_add_div_lt (s.valu_lt _) (s.readDr_lt m) (s.readDr_lt a)
    exact ⟨hcarry, _, hexec, writeWithCarry_spec s sd carry r hcarry⟩

/-! ### Span by span (R213, R214) -/

/-- R213, R214: a command that writes the value `v` to one span behind four checks, `v` fitting once the counts are right. -/
theorem productCommand_spec {i : Instr} {s : State} {sd : SpanReg} {v : Nat} {fit counts exts apart : Prop}
    [Decidable fit] [Decidable counts] [Decidable exts] [Decidable apart]
    (hv : counts → v < (s.span sd).modulus s.cfg)
    (hexec : exec i s = .next
      (if fit then
        if counts then
          if exts then
            if apart then State.complete (s.writeSpan sd v false) false else s.abort (encode i) .overlap
          else s.abort (encode i) .ext
        else s.abort (encode i) .count
      else s.abort (encode i) .spanRange)) :
    (¬ fit → AbortsWith i s .spanRange) ∧
    (fit → ¬ counts → AbortsWith i s .count) ∧
    (fit → counts → ¬ exts → AbortsWith i s .ext) ∧
    (fit → counts → exts → ¬ apart → AbortsWith i s .overlap) ∧
    (fit → counts → exts → apart →
      ∃ t, exec i s = .next t ∧ Holds s t sd v false ∧ Completed s t false ∧
        DigitsSameOutside s t [s.span sd] ∧ SpansSameBut s t [sd] ∧ DrsSameBut s t []) := by
  refine ⟨fun hfit => ?_, fun hfit hcounts => ?_, fun hfit hcounts hexts => ?_, fun hfit hcounts hexts hapart => ?_,
    fun hfit hcounts hexts hapart => ?_⟩
  · rw [AbortsWith, hexec, if_neg hfit, abort_eq]
  · rw [AbortsWith, hexec, if_pos hfit, if_neg hcounts, abort_eq]
  · rw [AbortsWith, hexec, if_pos hfit, if_pos hcounts, if_neg hexts, abort_eq]
  · rw [AbortsWith, hexec, if_pos hfit, if_pos hcounts, if_pos hexts, if_neg hapart, abort_eq]
  · rw [if_pos hfit, if_pos hcounts, if_pos hexts, if_pos hapart] at hexec
    exact ⟨_, hexec, completeSpan_spec s sd v false (hv hcounts)⟩

/-- R213: a product fits a span with as many digits as both operands have. -/
theorem State.valu_mul_valu_lt (s : State) {p q d : Span} (hsize : d.size = p.size + q.size) :
    s.valu p * s.valu q < d.modulus s.cfg := by
  rw [Span.modulus, hsize, pow_add]
  exact Nat.mul_lt_mul'' (s.valu_lt p) (s.valu_lt q)

/-- Settles O16: MUL's checks in their order, and the product fits sd. -/
theorem mulWritesFullProduct : Obligations.MulWritesFullProduct := by
  classical
  intro sd sa sb alg s
  exact ⟨rfl, productCommand_spec (fun ⟨_, _, hsize⟩ => s.valu_mul_valu_lt hsize)
    (congrArg Host.Outcome.next (checked_mul _ _ s sd sa sb))⟩

/-- Settles O17: SQR's checks in their order, and the square fits sd. -/
theorem sqrWritesFullSquare : Obligations.SqrWritesFullSquare := by
  classical
  intro sd sa alg s
  have hfits : 1 ≤ s.count sa ∧ s.count sd = 2 * s.count sa → s.valuOf sa ^ 2 < (s.span sd).modulus s.cfg :=
    fun ⟨_, hsize⟩ => sq (s.valuOf sa) ▸ s.valu_mul_valu_lt (hsize.trans (two_mul _))
  have hspec := productCommand_spec (i := .sqr sd sa alg) hfits
    (congrArg Host.Outcome.next (checked_sqr _ _ s sd sa))
  exact ⟨rfl, by simpa only [Bool.not_eq_false, not_not] using hspec⟩

/-! ### Digit lists (R83) -/

/-- R83: n digits hold a number wrapped to n digits. -/
@[simp] theorem listValue_digitsOf (b v n : Nat) : listValue b (digitsOf b v n) = v % b ^ n := by
  induction n generalizing v with
  | zero => simp [digitsOf, listValue, Nat.mod_one]
  | succ n ih => rw [digitsOf, listValue, ih, Nat.pow_succ', Nat.mod_mul]

@[simp] theorem listValue_zeros (b n : Nat) : listValue b (List.replicate n 0) = 0 := by
  induction n with
  | zero => rfl
  | succ n ih => rw [List.replicate_succ, listValue, ih, mul_zero, add_zero]

/-! ### Schoolbook multiplication (R217) -/

@[simp] theorem length_longRow (b d : Nat) {xs ps : List Nat} (hlen : ps.length = xs.length) (c : Nat) :
    (longRow b d xs ps c).length = xs.length + 1 := by
  induction xs generalizing ps c with
  | nil => simp [List.length_eq_zero_iff.1 hlen, longRow]
  | cons x xs ih =>
    obtain ⟨p, ps, rfl⟩ := List.exists_cons_of_length_eq_add_one hlen
    rw [longRow, List.length_cons, ih (by simpa using hlen), List.length_cons]

/-- A row puts its carry where the product's next digit stands, and leaves the digits above it. -/
theorem longRow_append (b d : Nat) {xs ps : List Nat} (hlen : ps.length = xs.length) (p : Nat) (zs : List Nat) (c : Nat) :
    longRow b d xs (ps ++ p :: zs) c = longRow b d xs ps c ++ zs := by
  induction xs generalizing ps c with
  | nil => simp [List.length_eq_zero_iff.1 hlen, longRow]
  | cons x xs ih =>
    obtain ⟨q, qs, rfl⟩ := List.exists_cons_of_length_eq_add_one hlen
    rw [List.cons_append, longRow, longRow, ih (by simpa using hlen), List.cons_append]

/-- A row is a fused multiply-accumulate: it adds `d` times the multiplicand and the carry into the product's digits. -/
theorem listValue_longRow (b d : Nat) {xs ps : List Nat} (hlen : ps.length = xs.length) (c : Nat) :
    listValue b (longRow b d xs ps c) = listValue b ps + d * listValue b xs + c := by
  induction xs generalizing ps c with
  | nil => simp [List.length_eq_zero_iff.1 hlen, longRow, listValue]
  | cons x xs ih =>
    obtain ⟨p, ps, rfl⟩ := List.exists_cons_of_length_eq_add_one hlen
    have hdigit := Nat.mod_add_div (p + x * d + c) b
    rw [longRow, listValue, ih (by simpa using hlen), listValue, listValue]
    linarith

/-- Once a row is done its first digit stands, and the next row starts one place further up. -/
theorem longRows_cons {b d q : Nat} {xs ds p qs : List Nat} (hrow : longRow b d xs p 0 = q :: qs) :
    longRows b xs (d :: ds) p = q :: longRows b xs ds qs := by
  rw [longRows, hrow]

/-- The rows add the whole product to the digits already there, over zeroed digits for the multiplier's length. -/
theorem listValue_longRows (b : Nat) {xs ps : List Nat} (ys : List Nat) (hlen : ps.length = xs.length) :
    listValue b (longRows b xs ys (ps ++ List.replicate ys.length 0)) =
      listValue b ps + listValue b xs * listValue b ys := by
  induction ys generalizing ps with
  | nil => simp [longRows, listValue]
  | cons d ds ih =>
    obtain ⟨q, qs, hrow⟩ := List.exists_cons_of_length_eq_add_one (length_longRow b d hlen 0)
    have hqs : qs.length = xs.length := by simpa [hrow] using length_longRow b d hlen 0
    have hval := listValue_longRow b d hlen 0
    have happend : longRow b d xs (ps ++ List.replicate (d :: ds).length 0) 0 = q :: (qs ++ List.replicate ds.length 0) := by
      rw [List.length_cons, List.replicate_succ, longRow_append b d hlen, hrow, List.cons_append]
    rw [hrow, listValue] at hval
    rw [longRows_cons happend, listValue, ih hqs, listValue]
    linarith

/-- R217: schoolbook multiplication gives the product of two digit lists. -/
theorem listValue_longProduct (b : Nat) (xs ys : List Nat) :
    listValue b (longProduct b xs ys) = listValue b xs * listValue b ys := by
  rw [longProduct, List.replicate_add, listValue_longRows b ys (by simp), listValue_zeros, zero_add]

/-- R217: LONG gives the product of the values that the operands' digits hold. -/
theorem long_eq_mul {b l n r m : Nat} (hl : l < b ^ n) (hr : r < b ^ m) : long b l n r m = l * r := by
  rw [long, listValue_longProduct, listValue_digitsOf, listValue_digitsOf, Nat.mod_eq_of_lt hl, Nat.mod_eq_of_lt hr]

/-! ### Karatsuba multiplication (R218) -/

@[simp] theorem absDiff_add_left (x d : Nat) : absDiff (x + d) x = d := by
  simp [absDiff]

@[simp] theorem absDiff_add_right (x d : Nat) : absDiff x (x + d) = d := by
  unfold absDiff
  split <;> omega

theorem absDiff_lt_pow_max {b x y i j : Nat} (hb : 0 < b) (hx : x < b ^ i) (hy : y < b ^ j) :
    absDiff x y < b ^ max j i := by
  have hi : b ^ i ≤ b ^ max j i := Nat.pow_le_pow_right hb (le_max_right j i)
  have hj : b ^ j ≤ b ^ max j i := Nat.pow_le_pow_right hb (le_max_left j i)
  unfold absDiff
  split <;> omega

section halves
variable {b l n : Nat} (k : Nat) (hl : l < b ^ n)
include hl

/-- R218: the high half has the digits that the low half leaves. -/
theorem high_half_lt (hb : 0 < b) : l / b ^ min k n < b ^ (n - min k n) := by
  rw [Nat.div_lt_iff_lt_mul (Nat.pow_pos hb), ← pow_add, Nat.sub_add_cancel (min_le_right k n)]
  exact hl

/-- R218: the halves at digit index k make up the operand, also where the operand has fewer digits than k. -/
theorem low_add_high_half : l % b ^ min k n + l / b ^ min k n * b ^ k = l := by
  rcases le_total k n with hkn | hnk
  · rw [min_eq_left hkn, Nat.mod_add_div']
  · rw [min_eq_right hnk, Nat.mod_eq_of_lt hl, Nat.div_eq_of_lt hl, zero_mul, add_zero]

end halves

/-- R218: the middle term, whose cross product is subtracted or added by the halves' comparisons, is lo * y + hi * x. -/
theorem karatsuba_mid (lo hi x y : Nat) :
    (if (decide (hi < lo)) != (decide (y < x)) then lo * x + hi * y + absDiff hi lo * absDiff y x
      else lo * x + hi * y - absDiff hi lo * absDiff y x) = lo * y + hi * x := by
  rcases le_or_gt lo hi with hlo | hlo
  · obtain ⟨d, rfl⟩ := Nat.exists_eq_add_of_le hlo
    rcases le_or_gt x y with hx | hx
    · obtain ⟨e, rfl⟩ := Nat.exists_eq_add_of_le hx
      rw [if_neg (by simp), absDiff_add_left, absDiff_add_left]
      exact Nat.sub_eq_of_eq_add (by ring)
    · obtain ⟨e, rfl⟩ := Nat.exists_eq_add_of_le hx.le
      rw [if_pos (by simp [hx]), absDiff_add_left, absDiff_add_right]
      ring
  · obtain ⟨d, rfl⟩ := Nat.exists_eq_add_of_le hlo.le
    rcases le_or_gt x y with hx | hx
    · obtain ⟨e, rfl⟩ := Nat.exists_eq_add_of_le hx
      rw [if_pos (by simp [hlo]), absDiff_add_right, absDiff_add_left]
      ring
    · obtain ⟨e, rfl⟩ := Nat.exists_eq_add_of_le hx.le
      rw [if_neg (by simp [hlo, hx]), absDiff_add_right, absDiff_add_right]
      exact Nat.sub_eq_of_eq_add (by ring)

/-- R218: the Karatsuba recursion gives the product, whatever the threshold, the force and the fuel. -/
theorem kmul_eq_mul {b : Nat} (hb : 0 < b) (t fuel : Nat) (force : Bool) {l n r m : Nat} (hl : l < b ^ n)
    (hr : r < b ^ m) : kmul b t fuel force l n r m = l * r := by
  induction fuel generalizing force l n r m with
  | zero => exact long_eq_mul hl hr
  | succ fuel ih =>
    rw [kmul]
    split
    · exact long_eq_mul hl hr
    · extract_lets k kn km lo hi x y low high cross mid
      have hlo : lo < b ^ kn := Nat.mod_lt _ (Nat.pow_pos hb)
      have hx : x < b ^ km := Nat.mod_lt _ (Nat.pow_pos hb)
      have hhi : hi < b ^ (n - kn) := high_half_lt k hl hb
      have hy : y < b ^ (m - km) := high_half_lt k hr hb
      have hlow : low = lo * x := ih false hlo hx
      have hhigh : high = hi * y := ih false hhi hy
      have hcross : cross = absDiff hi lo * absDiff y x :=
        ih false (absDiff_lt_pow_max hb hhi hlo) (absDiff_lt_pow_max hb hy hx)
      have hmid : mid = lo * y + hi * x := by
        rw [← karatsuba_mid lo hi x y, ← hlow, ← hhigh, ← hcross]
      calc low + mid * b ^ k + high * b ^ (2 * k)
        _ = (lo + hi * b ^ k) * (x + y * b ^ k) := by rw [hlow, hmid, hhigh]; ring
        _ = l * r := by rw [low_add_high_half k hl, low_add_high_half k hr]

/-- Settles O31: schoolbook at every level, or the Karatsuba recursion. -/
theorem multiplierEngineGivesProduct : Obligations.MultiplierEngineGivesProduct := by
  intro b t alg l n r m hb hl hr
  rw [mulEngine]
  split
  · exact long_eq_mul hl hr
  · exact kmul_eq_mul (by omega) t _ _ hl hr

/-! ### The square variants (R219) -/

theorem crossTerms_eq (b d : Nat) (xs : List Nat) : crossTerms b d xs = 2 * d * b * listValue b xs := by
  induction xs with
  | nil => rfl
  | cons x xs ih => rw [crossTerms, ih, listValue]; ring

/-- R219: the diagonal terms and the doubled cross terms make up the square. -/
theorem longSquare_eq (b : Nat) (xs : List Nat) : longSquare b xs = listValue b xs ^ 2 := by
  induction xs with
  | nil => rfl
  | cons x xs ih => rw [longSquare, crossTerms_eq, ih, listValue]; ring

/-- R219: the schoolbook square gives the square of the value that the operand's digits hold. -/
theorem longSquare_digitsOf {b l n : Nat} (hl : l < b ^ n) : longSquare b (digitsOf b l n) = l ^ 2 := by
  rw [longSquare_eq, listValue_digitsOf, Nat.mod_eq_of_lt hl]

/-- R219: the middle term of the Karatsuba square, which is that of the product of equal operands. -/
theorem karatsuba_sqr_mid (lo hi : Nat) : lo ^ 2 + hi ^ 2 - absDiff hi lo ^ 2 = 2 * (lo * hi) := by
  have h := karatsuba_mid lo hi lo hi
  rw [bne_self_eq_false, if_neg Bool.false_ne_true] at h
  rw [sq, sq, sq, h, mul_comm hi lo, two_mul]

/-- R219: the Karatsuba square's recursion gives the square, whatever the threshold, the force and the fuel. -/
theorem ksqr_eq_sq {b : Nat} (hb : 0 < b) (t fuel : Nat) (force : Bool) {l n : Nat} (hl : l < b ^ n) :
    ksqr b t fuel force l n = l ^ 2 := by
  induction fuel generalizing force l n with
  | zero => exact longSquare_digitsOf hl
  | succ fuel ih =>
    rw [ksqr]
    split
    · exact longSquare_digitsOf hl
    · extract_lets k lo hi low high mid
      have hk : min k n = k := by omega
      have hlo : lo < b ^ k := Nat.mod_lt _ (Nat.pow_pos hb)
      have hhi : hi < b ^ (n - k) := by simpa only [hk] using high_half_lt k hl hb
      have hlow : low = lo ^ 2 := ih false hlo
      have hhigh : high = hi ^ 2 := ih false hhi
      have hmid : mid = 2 * (lo * hi) := by
        rw [← karatsuba_sqr_mid lo hi, ← hlow, ← hhigh, ← ih false (absDiff_lt_pow_max hb hhi hlo)]
      have hsplit : lo + hi * b ^ k = l := by simpa only [hk] using low_add_high_half k hl
      calc low + mid * b ^ k + high * b ^ (2 * k)
        _ = (lo + hi * b ^ k) ^ 2 := by rw [hlow, hmid, hhigh]; ring
        _ = l ^ 2 := by rw [hsplit]

/-- Settles O32: the schoolbook square, or the Karatsuba square's recursion. -/
theorem squarerEngineGivesSquare : Obligations.SquarerEngineGivesSquare := by
  intro b t alg l n hb hl
  rw [sqrEngine]
  split
  · exact longSquare_digitsOf hl
  · exact ksqr_eq_sq (by omega) t _ _ hl

end Sys2Proof.Machine
end

section
/-! SUPPORT. Proofs of the statements about the divide commands (43_divide). -/

namespace Sys2Proof.Machine

/-! ### The shared quotient and remainder (R250 to R254) -/

/-- R254: the quotient by zero is 0. -/
@[simp] theorem quotient_zero (u : Nat) : quotient u 0 = 0 := rfl

theorem quotient_of_ne {v : Nat} (u : Nat) (hv : v ≠ 0) : quotient u v = u / v := if_neg hv

/-- R254: the remainder by zero is the truncated dividend. -/
@[simp] theorem remainder_zero (u low : Nat) : remainder u 0 low = low := rfl

theorem remainder_of_ne {v : Nat} (u low : Nat) (hv : v ≠ 0) : remainder u v low = u % v := if_neg hv

theorem quotient_le (u v : Nat) : quotient u v ≤ u := by
  rcases eq_or_ne v 0 with rfl | hv
  · exact u.zero_le
  · exact quotient_of_ne u hv ▸ Nat.div_le_self u v

/-- The remainder fits wherever the divisor and the truncated dividend do. -/
theorem remainder_lt {u v low b : Nat} (hv : v < b) (hlow : low < b) : remainder u v low < b := by
  rcases eq_or_ne v 0 with rfl | hne
  · exact hlow
  · exact remainder_of_ne u low hne ▸ (Nat.mod_lt u (Nat.pos_of_ne_zero hne)).trans hv

/-! ### The checks of the divide commands, in the order of R302 (R251 to R253) -/

/-- R212, R251, R252: a command behind the checks of one magnitude span. -/
theorem magnitudeCommand_spec {i : Instr} {s : State} {k : SpanReg} {op : State → State}
    (hexec : exec i s = .next (checked (encode i) (magnitudeChecks s (s.span k)) op s)) :
    (¬ s.Fits k → AbortsWith i s .spanRange) ∧
    (s.Fits k → s.count k = 0 → AbortsWith i s .count) ∧
    (s.Fits k → 1 ≤ s.count k → s.extBit k = true → AbortsWith i s .ext) ∧
    (s.Fits k → 1 ≤ s.count k → s.extBit k = false → exec i s = .next (op s)) := by
  rw [checked_magnitude] at hexec
  refine ⟨fun hfit => ?_, fun hfit hcount => ?_, fun hfit hcount hext => ?_, fun hfit hcount hext => ?_⟩
  · rw [AbortsWith, hexec, if_neg hfit, abort_eq]
  · rw [AbortsWith, hexec, if_pos hfit, if_neg (by omega), abort_eq]
  · rw [AbortsWith, hexec, if_pos hfit, if_pos hcount, if_neg (by simp [hext]), abort_eq]
  · rw [hexec, if_pos hfit, if_pos hcount, if_pos hext]

/-- R253: the six checks of LDIV. -/
theorem checked_ldiv (c : Word) (op : State → State) (s : State) (sq sr sa sb : SpanReg)
    [Decidable (¬ s.Overlaps sq sr ∧ ¬ s.Overlaps sq sa ∧ ¬ s.Overlaps sq sb ∧ ¬ s.Overlaps sr sa ∧
      ¬ s.Overlaps sr sb)] :
    checked c (ldivChecks s (s.span sq) (s.span sr) (s.span sa) (s.span sb) ++ [normalCheck s (s.span sb)]) op s =
      if s.Fits sq ∧ s.Fits sr ∧ s.Fits sa ∧ s.Fits sb then
        if s.count sb < s.count sa then
          if 1 ≤ s.count sb ∧ s.count sq = s.count sa - s.count sb + 1 ∧ s.count sr = s.count sb then
            if s.extBit sa = false ∧ s.extBit sb = false then
              if ¬ s.Overlaps sq sr ∧ ¬ s.Overlaps sq sa ∧ ¬ s.Overlaps sq sb ∧ ¬ s.Overlaps sr sa ∧
                  ¬ s.Overlaps sr sb then
                if s.valuOf sb = 0 ∨ s.readDigit ((s.span sb).start + s.count sb - 1) ≠ 0 then op s
                else s.abort c .divisorNotNormal
              else s.abort c .overlap
            else s.abort c .ext
          else s.abort c .count
        else s.abort c .dividendNotWider
      else s.abort c .spanRange := by
  simp only [ldivChecks, normalCheck, List.cons_append, List.nil_append]
  rw [checked_range, checked_cons, checked_count, checked_ext, checked_overlap, checked_cons, checked_nil]
  refine if_congr (by simp) (if_congr decide_eq_true_iff (if_congr Iff.rfl (if_congr (by simp) (if_congr ?_
    (if_congr decide_eq_true_iff rfl rfl) rfl) rfl) rfl) rfl) rfl
  simp [Span.disjoint_iff, and_assoc]

/-! ### Digit pair by digit (R250) -/

/-- R250: the quotient of the pair h:l needs a second digit exactly when h is not below the divisor. -/
theorem le_pair_div_iff {b h l v : Nat} (hl : l < b) (hv : v ≠ 0) : b ≤ (h * b + l) / v ↔ v ≤ h := by
  have hb : 0 < b := Nat.zero_lt_of_lt hl
  have hhigh : (h * b + l) / b = h := by
    rw [Nat.add_comm, Nat.add_mul_div_right l h hb, Nat.div_eq_of_lt hl, Nat.zero_add]
  rw [Nat.le_div_iff_mul_le (Nat.pos_of_ne_zero hv), Nat.mul_comm, ← Nat.le_div_iff_mul_le hb, hhigh]

/-- Settles O18: the OVERLAP check, then a pair of digits, with the quotient wrapped. -/
theorem divpDividesPairByDigit : Obligations.DivpDividesPairByDigit := by
  intro q r h l v s i n d
  have hexec : exec i s = .next (checked (encode i) (outputChecks q r) _ s) := rfl
  rw [checked_outputs] at hexec
  have hcompletes (hne : q ≠ r) : ∃ t, exec i s = .next t ∧ t.readDr q = quotient n d % s.cfg.radix ∧
      t.readDr r = remainder n d (s.readDr l) ∧ Completed s t (decide (d = 0 ∨ s.cfg.radix ≤ quotient n d)) ∧
      t.dmem = s.dmem ∧ t.sp = s.sp ∧ DrsSameBut s t [q, r] := by
    rw [if_neg hne] at hexec
    exact ⟨_, hexec, completePair_spec s _ _ _ hne (Nat.mod_lt _ s.cfg.radix_pos)
      (remainder_lt (s.readDr_lt v) (s.readDr_lt l))⟩
  refine ⟨rfl, fun heq => ?_, fun hne hzero => ?_, fun hne hd => ?_, fun hd => le_pair_div_iff (s.readDr_lt l) hd⟩
  · rw [AbortsWith, hexec, if_pos heq, abort_eq]
  · simpa [hzero] using hcompletes hne
  · simpa [hd, quotient_of_ne, remainder_of_ne] using hcompletes hne

/-! ### Span by digit (R251, R252) -/

/-- R251: the end of a command with one destination span and one digit output. -/
theorem completeSpanDigit_spec (s : State) (k : SpanReg) (j : DigitReg) {v w : Nat} (ovf : Bool)
    (hv : v < (s.span k).modulus s.cfg) (hw : w < s.cfg.radix) :
    let t := ((s.writeSpan k v false).writeDr j w).complete ovf
    Holds s t k v false ∧ t.readDr j = w ∧ Completed s t ovf := by
  refine ⟨⟨?_, s.span_writeSpan_same k v false⟩, ?_,
    complete_completed _ _ _ rfl ⟨rfl, rfl, rfl, rfl⟩ ⟨rfl, rfl, rfl, rfl, rfl, rfl⟩⟩
  · rw [State.valu_complete, State.valu_writeDr, State.valu_writeSpan, Nat.mod_eq_of_lt hv]
  · rw [State.readDr_complete, State.readDr_writeDr_same]
    exact Nat.mod_eq_of_lt hw

/-- Settles O19: the checks of a magnitude span, then a quotient that fits where the dividend did; the frame is that of
every command. -/
theorem divdDividesSpanByDigit : Obligations.DivdDividesSpanByDigit := by
  intro sd v r s i u d
  obtain ⟨hrange, hcount, hext, hcompletes⟩ := magnitudeCommand_spec (i := i) (s := s) (k := sd) rfl
  refine ⟨rfl, hrange, hcount, hext, fun hfit hpos hext => ?_⟩
  obtain ⟨t, hexec, hend⟩ : ∃ t, exec i s = .next t ∧ Holds s t sd (quotient u d) false ∧
      t.readDr r = remainder u d (u % s.cfg.radix) ∧ Completed s t (decide (d = 0)) :=
    ⟨_, hcompletes hfit hpos hext, completeSpanDigit_spec s sd r _ ((quotient_le u d).trans_lt (s.valu_lt _))
      (remainder_lt (s.readDr_lt v) (Nat.mod_lt u s.cfg.radix_pos))⟩
  obtain ⟨hdigits, hspans, hdrs, -⟩ := commandsWriteOnlyTheirDestinations i s t hexec
  refine ⟨t, hexec, fun hzero => ?_, fun hd => ?_, hdigits, hspans, hdrs⟩
  · simpa [hzero] using hend
  · simpa [hd, quotient_of_ne, remainder_of_ne] using hend

/-- R252: the end of a command with one digit output alone. -/
theorem completeDigit_spec (s : State) (j : DigitReg) {w : Nat} (ovf : Bool) (hw : w < s.cfg.radix) :
    let t := (s.writeDr j w).complete ovf
    t.readDr j = w ∧ Completed s t ovf := by
  refine ⟨?_, complete_completed _ _ _ rfl ⟨rfl, rfl, rfl, rfl⟩ ⟨rfl, rfl, rfl, rfl, rfl, rfl⟩⟩
  rw [State.readDr_complete, State.readDr_writeDr_same, Nat.mod_eq_of_lt hw]

/-- Settles O20: the checks of a magnitude span, then the remainder to a register; DMEM and the spans are not written. -/
theorem remdGivesRemainderOnly : Obligations.RemdGivesRemainderOnly := by
  intro sa v r s i u d
  obtain ⟨hrange, hcount, hext, hcompletes⟩ := magnitudeCommand_spec (i := i) (s := s) (k := sa) rfl
  refine ⟨rfl, hrange, hcount, hext, fun hfit hpos hext => ?_⟩
  obtain ⟨t, hexec, hmem, hsp, hend⟩ : ∃ t, exec i s = .next t ∧ t.dmem = s.dmem ∧ t.sp = s.sp ∧
      t.readDr r = remainder u d (u % s.cfg.radix) ∧ Completed s t (decide (d = 0)) :=
    ⟨_, hcompletes hfit hpos hext, rfl, rfl,
      completeDigit_spec s r _ (remainder_lt (s.readDr_lt v) (Nat.mod_lt u s.cfg.radix_pos))⟩
  obtain ⟨-, -, hdrs, -⟩ := commandsWriteOnlyTheirDestinations i s t hexec
  refine ⟨t, hexec, fun hzero => ?_, fun hd => ?_, hmem, hsp, hdrs⟩
  · simpa [hzero] using hend
  · simpa [hd, remainder_of_ne] using hend

/-! ### Span by span (R253) -/

/-- R87: a span with digits overlaps itself, so one that does not overlap it is another. -/
theorem State.ne_of_not_overlaps {s : State} {j k : SpanReg} (hpos : 1 ≤ s.count j) (h : ¬ s.Overlaps j k) :
    j ≠ k := by
  rintro rfl
  have hcovers : (s.span j).covers (s.span j).start = true :=
    (Span.covers_iff _ _).2 ⟨le_rfl, Nat.lt_add_of_pos_right hpos⟩
  exact h ⟨_, hcovers, hcovers⟩

/-- R253: a divisor with a nonzero top digit is at least B^(m-1). -/
theorem State.pow_le_valu (s : State) {p : Span} (hp : 1 ≤ p.size) (htop : s.readDigit (p.start + p.size - 1) ≠ 0) :
    s.cfg.radix ^ (p.size - 1) ≤ s.valu p := by
  by_contra! hlt
  have hdigit := s.memRead_digit p.start p.size (p.size - 1) (by omega)
  rw [← State.valu, Nat.div_eq_of_lt hlt, Nat.zero_mod, ← Nat.add_sub_assoc hp] at hdigit
  exact htop hdigit.symm

/-- R253: a dividend below B^n over a divisor of at least B^(m-1) has a quotient below B^(n-m+1). -/
theorem div_lt_pow {b u v n m : Nat} (hm : 1 ≤ m) (hmn : m < n) (hu : u < b ^ n) (hv : b ^ (m - 1) ≤ v) :
    u / v < b ^ (n - m + 1) := by
  refine Nat.div_lt_of_lt_mul (hu.trans_le ?_)
  calc b ^ n
    _ = b ^ (m - 1) * b ^ (n - m + 1) := by rw [← pow_add]; congr 1; omega
    _ ≤ v * b ^ (n - m + 1) := Nat.mul_le_mul_right _ hv

/-- R253: the quotient fits sq, as the divisor is 0 or normal. -/
theorem State.quotient_lt_modulus (s : State) {sq sa sb : Span} (hb : 1 ≤ sb.size) (hwider : sb.size < sa.size)
    (hq : sq.size = sa.size - sb.size + 1)
    (hnormal : s.valu sb = 0 ∨ s.readDigit (sb.start + sb.size - 1) ≠ 0) :
    quotient (s.valu sa) (s.valu sb) < sq.modulus s.cfg := by
  rcases eq_or_ne (s.valu sb) 0 with hzero | hne
  · rw [hzero, quotient_zero]
    exact sq.modulus_pos s.cfg
  · rw [quotient_of_ne _ hne, Span.modulus, hq]
    exact div_lt_pow hb hwider (s.valu_lt sa) (s.pow_le_valu hb (hnormal.resolve_left hne))

/-- R253, R254: the remainder fits sr, which has as many digits as the divisor. -/
theorem State.remainder_lt_modulus (s : State) {sr sb : Span} (sa : Span) (hr : sr.size = sb.size) :
    remainder (s.valu sa) (s.valu sb) (s.valu sa % s.cfg.radix ^ sb.size) < sr.modulus s.cfg := by
  rw [Span.modulus, hr]
  exact remainder_lt (s.valu_lt sb) (Nat.mod_lt _ (Nat.pow_pos s.cfg.radix_pos))

/-- Settles O21: LDIV's checks in their order, then two spans apart, which the quotient and the remainder fit. -/
theorem ldivDividesSpanBySpan : Obligations.LdivDividesSpanBySpan := by
  classical
  intro sq sr sa sb s i n m u v fit counts exts apart top
  have hexec : exec i s = .next (checked (encode i)
    (ldivChecks s (s.span sq) (s.span sr) (s.span sa) (s.span sb) ++ [normalCheck s (s.span sb)]) _ s) := rfl
  rw [checked_ldiv] at hexec
  refine ⟨rfl, fun hfit => ?_, fun hfit hle => ?_, fun hfit hlt hcounts => ?_, fun hfit hlt hcounts hexts => ?_,
    fun hfit hlt hcounts hexts hapart => ?_, fun hfit hlt hcounts hexts hapart hv htop => ?_,
    fun hfit hlt hcounts hexts hapart hnormal => ?_⟩
  · rw [AbortsWith, hexec, if_neg hfit, abort_eq]
  · rw [AbortsWith, hexec, if_pos hfit, if_neg hle.not_gt, abort_eq]
  · rw [AbortsWith, hexec, if_pos hfit, if_pos hlt, if_neg hcounts, abort_eq]
  · rw [AbortsWith, hexec, if_pos hfit, if_pos hlt, if_pos hcounts, if_neg hexts, abort_eq]
  · rw [AbortsWith, hexec, if_pos hfit, if_pos hlt, if_pos hcounts, if_pos hexts, if_neg hapart, abort_eq]
  · rw [AbortsWith, hexec, if_pos hfit, if_pos hlt, if_pos hcounts, if_pos hexts, if_pos hapart,
      if_neg (not_or.2 ⟨hv, not_not.2 htop⟩), abort_eq]
  · rw [if_pos hfit, if_pos hlt, if_pos hcounts, if_pos hexts, if_pos hapart, if_pos hnormal] at hexec
    obtain ⟨hm, hq, hr⟩ := hcounts
    have hne : sq ≠ sr := State.ne_of_not_overlaps (hq.symm ▸ Nat.le_add_left 1 _) hapart.1
    obtain ⟨t, hexec, hquotient, hremainder, hcompleted, hframe⟩ : ∃ t, exec i s = .next t ∧
        Holds s t sq (quotient u v) false ∧ Holds s t sr (remainder u v (u % s.cfg.radix ^ m)) false ∧
        Completed s t (decide (v = 0)) ∧ DigitsSameOutside s t [s.span sq, s.span sr] ∧ SpansSameBut s t [sq, sr] ∧
        DrsSameBut s t [] :=
      ⟨_, hexec, completeSpans_spec s _ _ _ hne hapart.1 (s.quotient_lt_modulus hm hlt hq hnormal)
        (s.remainder_lt_modulus _ hr)⟩
    refine ⟨t, hexec, fun hzero => ?_, fun hv => ?_, hframe⟩
    · rw [hzero] at hquotient hremainder hcompleted
      exact ⟨hquotient, hremainder, hcompleted⟩
    · rw [quotient_of_ne u hv] at hquotient
      rw [remainder_of_ne u _ hv] at hremainder
      rw [decide_eq_false hv] at hcompleted
      exact ⟨hquotient, hremainder, hcompleted⟩

/-! ### The division identity (R251, R253) -/

theorem Holds.valuOf {s t : State} {k : SpanReg} {v : Nat} {e : Bool} (h : Holds s t k v e) : t.valuOf k = v := by
  obtain ⟨hval, hspan⟩ := h
  rw [State.valuOf, hspan, State.valu_withExt, hval]

/-- R303: a command that aborts latches the error. -/
theorem AbortsWith.err {i : Instr} {s t : State} {code : ErrCode} (h : AbortsWith i s code)
    (hexec : exec i s = .next t) : t.err = true := by
  rw [AbortsWith, hexec, Host.Outcome.next.injEq] at h
  exact congrArg State.err h

/-- R253: an LDIV that latches no error has passed its checks, so its results are those of the division. -/
theorem holds_of_ldiv {s t : State} {sq sr sa sb : SpanReg} (hexec : exec (.ldiv sq sr sa sb) s = .next t)
    (herr : t.err = false) (hv : s.valuOf sb ≠ 0) :
    Holds s t sq (s.valuOf sa / s.valuOf sb) false ∧ Holds s t sr (s.valuOf sa % s.valuOf sb) false := by
  have hpassed {code : ErrCode} : ¬ AbortsWith (.ldiv sq sr sa sb) s code := fun h => by
    simp [h.err hexec] at herr
  obtain ⟨-, hrange, hwider, hcount, hext, hoverlap, hnormal, hcompletes⟩ := ldivDividesSpanBySpan sq sr sa sb s
  have hfit := not_imp_comm.1 hrange hpassed
  have hlt := not_le.1 fun hle => hpassed (hwider hfit hle)
  have hcounts := not_imp_comm.1 (hcount hfit hlt) hpassed
  have hexts := not_imp_comm.1 (hext hfit hlt hcounts) hpassed
  have hapart := not_imp_comm.1 (hoverlap hfit hlt hcounts hexts) hpassed
  have htop := fun hzero => hpassed (hnormal hfit hlt hcounts hexts hapart hv hzero)
  obtain ⟨t', hexec', -, hdivides, -⟩ := hcompletes hfit hlt hcounts hexts hapart (.inr htop)
  obtain rfl := Host.Outcome.next.inj (hexec'.symm.trans hexec)
  obtain ⟨hq, hr, -⟩ := hdivides hv
  exact ⟨hq, hr⟩

/-- Settles O27: the two results of DIVD, and of an LDIV that passes its checks, are `/` and `%` of the dividend. -/
theorem quotientTimesDivisorPlusRemainder : Obligations.QuotientTimesDivisorPlusRemainder := by
  intro s t
  refine ⟨fun sd v r hfit hpos hext hv hexec => ?_, fun sq sr sa sb hexec herr hv => ?_⟩
  · obtain ⟨-, -, -, -, hcompletes⟩ := divdDividesSpanByDigit sd v r s
    obtain ⟨t', hexec', -, hdivides, -⟩ := hcompletes hfit hpos hext
    obtain rfl := Host.Outcome.next.inj (hexec'.symm.trans hexec)
    obtain ⟨hq, hr, -⟩ := hdivides hv
    rw [hq.valuOf, hr]
    exact ⟨Nat.div_add_mod' _ _, Nat.mod_lt _ (Nat.pos_of_ne_zero hv)⟩
  · obtain ⟨hq, hr⟩ := holds_of_ldiv hexec herr hv
    rw [hq.valuOf, hr.valuOf]
    exact ⟨Nat.div_add_mod' _ _, Nat.mod_lt _ (Nat.pos_of_ne_zero hv)⟩

end Sys2Proof.Machine
end

section
/-! SUPPORT. Proofs of the statements about how a command ends and how a step goes on (60_exceptions). -/

namespace Sys2Proof.Machine

/-! ### A step that the word in flight decides (R302, R304) -/

/-- Settles O40: the engine is next, and it runs the decoded command. -/
theorem stepRunsDecodedCommand : Obligations.StepRunsDecodedCommand :=
  fun _ _ _ hcmd herr hdec hnext => (step_engine hcmd hnext).trans (runCommand_ok herr hdec)

/-- Settles O43: the engine is next, and a latched error makes it discard the word. -/
theorem stepDiscardsWhileErrorLatched : Obligations.StepDiscardsWhileErrorLatched :=
  fun _ _ => step_latched

/-! ### A command completes or aborts (R300, R303, R307) -/

/-- R303: the writes of a command leave the error latch alone. -/
theorem Wrote.sameError {i : Instr} {s t : State} (h : Wrote i s t) : SameError s t := by
  induction h with
  | start => exact ⟨rfl, rfl, rfl, rfl⟩
  | span _ _ _ _ _ _ ih => exact ih
  | dr _ _ _ _ ih => exact ih

/-- Settles O35: of the ways a command can end, the abort alone latches an error, and its code is not 0. -/
theorem everyCommandCompletesOrAborts : Obligations.EveryCommandCompletesOrAborts := by
  intro i s
  obtain ⟨t, hexec, hended⟩ := exec_ended i s
  obtain ⟨hidle, hdone, -⟩ := hended.ends
  cases hended with
  | abort code hcode => exact .inl ⟨code, hcode, hexec⟩
  | nop | clrf => exact .inr ⟨_, hexec, hidle, hdone, Wrote.start.sameError (i := i)⟩
  | complete hwrote ovf => exact .inr ⟨_, hexec, hidle, hdone, hwrote.sameError⟩

/-! ### Every step answers a next state, and every command ends (R307, R308, R348) -/

/-- Serving an act changes neither the parameters nor the acts that are still to come. -/
theorem State.serve_cfg_events (s : State) (op : HostOp) :
    (s.serve op).cfg = s.cfg ∧ (s.serve op).events = s.events := by
  cases op with
  | read addr =>
    by_cases hbase : s.cfg.umnBase ≤ addr
    · exact serve_read hbase ▸ ⟨rfl, rfl⟩
    · exact (serve_below (not_le.1 hbase) 0).1.symm ▸ ⟨rfl, rfl⟩
  | write addr v =>
    by_cases hbase : s.cfg.umnBase ≤ addr
    · obtain ⟨hevents, -, hcfg⟩ := s.portWrite_outside (portReg s.cfg (addr - s.cfg.umnBase)) v
      exact serve_write v hbase ▸ ⟨hcfg, hevents⟩
    · exact (serve_below (not_le.1 hbase) v).2.symm ▸ ⟨rfl, rfl⟩
  | reset => exact ⟨rfl, rfl⟩

/-- Settles O47: a step idles, serves an act or runs the command in flight, and each answers a next state with
the same parameters. -/
theorem stepAlwaysAnswersNext : Obligations.StepAlwaysAnswersNext := by
  refine fun s => ⟨?_, step_idle⟩
  obtain ⟨-, -, heq⟩ | ⟨ev, rest, -, -, heq⟩ | ⟨c, -, -, heq⟩ := step_cases s
  · exact ⟨s, heq, rfl⟩
  · exact ⟨_, heq, (State.serve_cfg_events { s with events := rest } ev.op).1⟩
  · obtain ⟨t, hrun, -, -, hcfg, -⟩ := runCommand_ends c s
    exact ⟨t, heq.trans hrun, hcfg⟩

/-- A run of one step more is the step and then the run. -/
theorem run_succ {M : Host.Core} {s t : M.State} (k : Nat) (h : M.step s = .next t) :
    M.run (k + 1) s = M.run k t := by
  rw [Host.Core.run, h]

/-- R307, R348: an engine step ends the command in flight, and each act served before it is one act less to come. -/
theorem run_reaches_idle (s : State) : ∃ k ≤ s.events.length + 1, ∃ t : State,
    Host.Core.run Sys2Proof.core k s = .next t ∧ t.inFlight = none := by
  obtain ⟨hidle, -, -⟩ | ⟨ev, rest, hev, -, heq⟩ | ⟨c, -, -, heq⟩ := step_cases s
  · exact ⟨0, Nat.zero_le _, s, rfl, hidle⟩
  · have hevents := (State.serve_cfg_events { s with events := rest } ev.op).2
    obtain ⟨k, hk, t, hrun, hidle⟩ := run_reaches_idle (State.serve { s with events := rest } ev.op)
    rw [hevents] at hk
    exact ⟨k + 1, by simpa [hev] using hk, t, (run_succ k heq).trans hrun, hidle⟩
  · obtain ⟨t, hrun, hidle, -⟩ := runCommand_ends c s
    exact ⟨1, Nat.le_add_left 1 _, t, run_succ 0 (heq.trans hrun), hidle⟩
termination_by s.events.length
decreasing_by simp [hevents, hev]

/-- Settles O48: from every state a run ends at a state with no command in flight, within the bound. -/
theorem acceptedCommandEnds : Obligations.AcceptedCommandEnds := run_reaches_idle

/-! ### Writes to CTRL and STATUS (R39, R40, R305) -/

/-- R39: writing 1 to DONE clears it. -/
theorem State.writeStatus_clear (s : State) {v : Word} (h : v.getLsbD 1 = true) :
    s.writeStatus v = { s with done := false } := by
  rw [State.writeStatus, h, Bool.not_true, Bool.and_false]

/-- R39: writing 0 to DONE does nothing. -/
theorem State.writeStatus_keep (s : State) {v : Word} (h : v.getLsbD 1 = false) : s.writeStatus v = s := by
  rw [State.writeStatus, h, Bool.not_false, Bool.and_true]

/-- R40: bit 8 of a write to CTRL is ERRCLR. -/
theorem State.writeCtrl_errclr (s : State) {v : Word} (h : v.getLsbD 8 = true) :
    s.writeCtrl v = State.clearErr { s with ieDone := v.getLsbD 0, ieErr := v.getLsbD 1 } := if_pos h

/-- R40: without bit 8 a write to CTRL sets the enables alone. -/
theorem State.writeCtrl_enables (s : State) {v : Word} (h : v.getLsbD 8 = false) :
    s.writeCtrl v = { s with ieDone := v.getLsbD 0, ieErr := v.getLsbD 1 } := if_neg (Bool.eq_false_iff.1 h)

/-- R40: what a write to CTRL leaves reads as its two enables. -/
theorem State.ctrlWord_writeCtrl (s : State) (v : Word) :
    (s.writeCtrl v).ctrlWord = BitVec.ofNat 32 ((v.getLsbD 0).toNat + 2 * (v.getLsbD 1).toNat) := by
  cases h : v.getLsbD 8 with
  | true => rw [s.writeCtrl_errclr h]; rfl
  | false => rw [s.writeCtrl_enables h]; rfl

/-- The two low bits of a word as a number. -/
theorem Word.lowBits_toNat (v : Word) : (v.getLsbD 0).toNat + 2 * (v.getLsbD 1).toNat = v.toNat % 4 := by
  rw [BitVec.getLsbD, BitVec.getLsbD, Nat.toNat_testBit, Nat.toNat_testBit]
  omega

/-- Settles O53: the two registers' writes bit by bit, the enables as they read back, and the stall of R90. -/
theorem ctrlAndStatusWrites : Obligations.CtrlAndStatusWrites := by
  refine fun s v => ⟨s.writeStatus_clear, s.writeStatus_keep, s.writeCtrl_errclr, s.writeCtrl_enables, ?_,
    fun _ => stalls_write v⟩
  change (s.writeCtrl v).ctrlWord.toNat = _
  rw [s.ctrlWord_writeCtrl, Word.lowBits_toNat, BitVec.toNat_ofNat, Nat.mod_eq_of_lt (by omega)]

end Sys2Proof.Machine
end

section
/-! SUPPORT. Proofs of the statements about issuing a word and about the record of aborts (10_state, 60_exceptions). -/

namespace Sys2Proof.Machine

/-! ### The word that the host has issued (R43, R342, R346) -/

/-- A word's own bits are the word that `withFetchWord` issues. -/
theorem State.withFetchWord_toNat (s : State) (w : Word) : s.withFetchWord 32 w.toNat = s.issue w := by
  rw [State.withFetchWord, Nat.mod_eq_of_lt w.isLt, BitVec.ofNat_toNat, BitVec.setWidth_eq]

/-- R346: the host issues a word with no error latched. -/
theorem State.issue_err (s : State) (c : Word) : (s.issue c).err = false := by
  change (if s.err then s.clearErr else s).err = false
  cases h : s.err with
  | true => rfl
  | false => exact h

/-- What was pending when the host issued the word comes after the command's end. -/
theorem State.issue_engineNext (s : State) (c : Word) : (s.issue c).EngineNext := by
  intro ev hev
  change ev ∈ (s.events.map HostEvent.late).head? at hev
  obtain ⟨e, -, rfl⟩ := List.mem_map.1 (List.mem_of_mem_head? hev)
  exact .inl rfl

/-- Settles O41: the issued word is in flight, no error is latched and the engine is next. -/
theorem fetchWordRunsNext : Obligations.FetchWordRunsNext := by
  intro s w i hdec
  rw [s.withFetchWord_toNat]
  exact stepRunsDecodedCommand _ w i rfl (s.issue_err w) hdec (s.issue_engineNext w)

/-! ### The record that an abort happened (R317) -/

/-- From `s` to `t` no record of an abort was erased, and no error was latched without one. -/
def RecordKept (s t : State) : Prop :=
  (s.everAborted = true → t.everAborted = true) ∧ (t.safe → s.err = false → t.err = false)

theorem RecordKept.refl (s : State) : RecordKept s s := ⟨id, fun _ => id⟩

theorem RecordKept.trans {s t u : State} (hst : RecordKept s t) (htu : RecordKept t u) : RecordKept s u := by
  refine ⟨htu.1 ∘ hst.1, fun hu hs => htu.2 hu (hst.2 ?_ hs)⟩
  exact Bool.eq_false_iff.2 fun ht => Bool.false_ne_true (hu.symm.trans (htu.1 ht))

/-- An update that leaves the record alone, and the latch alone or clear. -/
theorem RecordKept.of_err {s t : State} (hrecord : t.everAborted = s.everAborted)
    (herr : t.err = s.err ∨ t.err = false) : RecordKept s t :=
  ⟨hrecord.trans, fun _ hs => herr.elim (·.trans hs) id⟩

/-- R303: an abort is on record, so it may latch an error. -/
theorem RecordKept.abort (s : State) (c : Word) (code : ErrCode) : RecordKept s (s.abort c code) :=
  ⟨fun _ => rfl, fun hsafe => by cases hsafe⟩

theorem Ended.recordKept {i : Instr} {s t : State} (h : Ended i s t) : RecordKept s t := by
  cases h with
  | nop | clrf => exact .of_err rfl (.inl rfl)
  | abort code _ => exact .abort s _ code
  | complete hwrote ovf =>
    obtain ⟨herr, -, -, hrecord⟩ := hwrote.sameError
    exact .of_err hrecord (.inl herr)

theorem runCommand_recordKept {s t : State} {c : Word} (hrun : runCommand c s = .next t) : RecordKept s t := by
  obtain ⟨-, heq⟩ | ⟨-, i, -, heq⟩ | ⟨-, e, -, heq⟩ := runCommand_cases c s
  · obtain rfl : s.endCommand = t := by simpa [heq] using hrun
    exact .of_err rfl (.inl rfl)
  · obtain ⟨t', hnext, hended⟩ := exec_ended i s
    obtain rfl : t' = t := by simpa [heq, hnext] using hrun
    exact hended.recordKept
  · obtain rfl : s.abort c (ErrCode.ofDecode e) = t := by simpa [heq] using hrun
    exact .abort s c _

/-- R305: a write to the block latches no error; ERRCLR clears the latch and not the record. -/
theorem State.portWrite_recordKept (s : State) (r : PortReg) (v : Word) : RecordKept s (s.portWrite r v) := by
  cases r with
  | ctrl =>
    change RecordKept s (s.writeCtrl v)
    cases h : v.getLsbD 8 with
    | true => exact s.writeCtrl_errclr h ▸ .of_err rfl (.inr rfl)
    | false => exact s.writeCtrl_enables h ▸ .of_err rfl (.inl rfl)
  | drHi _ | dmemHi _ =>
    change RecordKept s (if _ then _ else _)
    split <;> exact .of_err rfl (.inl rfl)
  | _ => exact .of_err rfl (.inl rfl)

/-- Nothing that the outside world does erases the record, the reset input neither. -/
theorem State.serve_recordKept (s : State) (op : HostOp) : RecordKept s (s.serve op) := by
  cases op with
  | read addr =>
    by_cases hbase : s.cfg.umnBase ≤ addr
    · exact serve_read hbase ▸ .of_err rfl (.inl rfl)
    · exact (serve_below (not_le.1 hbase) 0).1.symm ▸ .refl s
  | write addr v =>
    by_cases hbase : s.cfg.umnBase ≤ addr
    · exact serve_write v hbase ▸ s.portWrite_recordKept _ v
    · exact (serve_below (not_le.1 hbase) v).2.symm ▸ .refl s
  | reset => exact .of_err rfl (.inr rfl)

theorem step_recordKept {s t : State} (hstep : step s = .next t) : RecordKept s t := by
  obtain ⟨-, -, heq⟩ | ⟨ev, rest, -, -, heq⟩ | ⟨c, -, -, heq⟩ := step_cases s
  · obtain rfl : s = t := by simpa [heq] using hstep
    exact .refl s
  · obtain rfl : State.serve { s with events := rest } ev.op = t := by simpa [heq] using hstep
    have hpop : RecordKept s { s with events := rest } := .of_err rfl (.inl rfl)
    exact hpop.trans (State.serve_recordKept _ ev.op)
  · exact runCommand_recordKept (heq ▸ hstep)

/-- Settles O49: every step keeps the record, and so does every run. -/
theorem abortRecordIsNeverErased : Obligations.AbortRecordIsNeverErased := by
  intro s t hreach
  induction hreach with
  | refl => exact RecordKept.refl s
  | step _ hstep ih => exact RecordKept.trans ih (step_recordKept hstep)

end Sys2Proof.Machine
end

section
/-! SUPPORT. Proofs of the overflow laws of the adder commands (40_overflow_flags, 41_adder). -/

namespace Sys2Proof.Machine

/-! ### A number of k + 1 bits read as a signed one (R37, R178) -/

/-- The top bit of a (k+1)-bit number is set from 2^k on. -/
theorem testBit_top {k w : Nat} (hw : w < 2 ^ (k + 1)) : w.testBit k = decide (2 ^ k ≤ w) := by
  rcases Nat.lt_or_ge w (2 ^ k) with hlt | hge
  · rw [Nat.testBit_lt_two_pow hlt, decide_eq_false (not_le.2 hlt)]
  · rw [Nat.testBit_of_two_pow_le_and_two_pow_add_one_gt hge hw, decide_eq_true hge]

/-- A (k+1)-bit number in two's complement. -/
def signedRead (k w : Nat) : Int := (w : Int) - ((w.testBit k).toNat : Int) * 2 ^ (k + 1)

theorem signedRead_of_lt {k w : Nat} (hw : w < 2 ^ k) : signedRead k w = w := by
  rw [signedRead, Nat.testBit_lt_two_pow hw]
  simp

theorem signedRead_of_ge {k w : Nat} (hge : 2 ^ k ≤ w) (hw : w < 2 ^ (k + 1)) :
    signedRead k w = w - 2 ^ (k + 1) := by
  rw [signedRead, Nat.testBit_of_two_pow_le_and_two_pow_add_one_gt hge hw]
  simp

/-- The remainder of a number at most one modulus below 0. -/
theorem emod_of_neg {m r : Int} (hlow : -m ≤ r) (hneg : r < 0) : r % m = r + m := by
  rw [← Int.add_emod_right, Int.emod_eq_of_lt (by omega) (by omega)]

/-- The remainder of a complement is the complement of the remainder. -/
theorem neg_one_sub_emod (r : Int) {m : Int} (hm : 0 < m) : (-1 - r) % m = m - 1 - r % m := by
  have hlow := Int.emod_nonneg r hm.ne'
  have hhigh := Int.emod_lt_of_pos r hm
  have hdiv := Int.emod_add_mul_ediv r m
  have hsplit : -1 - r = (m - 1 - r % m) + m * (-1 - r / m) := by linarith
  rw [hsplit, Int.add_mul_emod_self_left, Int.emod_eq_of_lt (by omega) (by omega)]

/-- The quotient of a complement is the complement of the quotient. -/
theorem neg_one_sub_ediv (r : Int) {m : Int} (hm : 0 < m) : (-1 - r) / m = -1 - r / m := by
  have hlow := Int.emod_nonneg r hm.ne'
  have hhigh := Int.emod_lt_of_pos r hm
  have hdiv := Int.emod_add_mul_ediv r m
  rw [Int.ediv_eq_iff_of_pos hm]
  constructor <;> linarith

/-- A signed reading is in the signed range. -/
theorem signedRead_range {k w : Nat} (hw : w < 2 ^ (k + 1)) : -2 ^ k ≤ signedRead k w ∧ signedRead k w < 2 ^ k := by
  have hpow : (2 : Int) ^ (k + 1) = 2 * 2 ^ k := pow_succ' 2 k
  have hpos : (0 : Int) < 2 ^ k := by positivity
  have hw' : (w : Int) < 2 ^ (k + 1) := by exact_mod_cast hw
  rcases Nat.lt_or_ge w (2 ^ k) with hlt | hge
  · have : (w : Int) < 2 ^ k := by exact_mod_cast hlt
    rw [signedRead_of_lt hlt]
    omega
  · have : (2 : Int) ^ k ≤ w := by exact_mod_cast hge
    rw [signedRead_of_ge hge hw]
    omega

/-- `x` is the number that k + 1 bits hold when they hold `a` in two's complement. -/
structure TwosComplement (k : Nat) (a : Int) (x : Nat) : Prop where
  low : -2 ^ k ≤ a
  high : a < 2 ^ k
  bits : (x : Int) = a % 2 ^ (k + 1)

section twosComplement
variable {k : Nat} {a b : Int} {x y : Nat}

/-- A pattern is its low k bits `z` with the top bit on them or not, which weighs 2^k in `x` and -2^k in `a`. -/
theorem TwosComplement.low_bits (h : TwosComplement k a x) :
    ∃ z, z < 2 ^ k ∧ x % 2 ^ k = z ∧ ((x = z ∧ a = z) ∨ (x = z + 2 ^ k ∧ a = z - 2 ^ k)) := by
  obtain ⟨hlow, hhigh, hbits⟩ := h
  have hpow : (2 : Int) ^ (k + 1) = 2 * 2 ^ k := pow_succ' 2 k
  rcases lt_or_ge a 0 with hneg | hnonneg
  · rw [emod_of_neg (by omega) hneg] at hbits
    obtain ⟨z, rfl⟩ : ∃ z, x = z + 2 ^ k := Nat.exists_eq_add_of_le' (by zify; omega)
    push_cast at hbits
    have hz : z < 2 ^ k := by zify; omega
    exact ⟨z, hz, by rw [Nat.add_mod_right, Nat.mod_eq_of_lt hz], .inr ⟨rfl, by omega⟩⟩
  · rw [Int.emod_eq_of_lt hnonneg (by omega)] at hbits
    have hx : x < 2 ^ k := by zify; omega
    exact ⟨x, hx, Nat.mod_eq_of_lt hx, .inl ⟨rfl, hbits.symm⟩⟩

/-- Reading the low k + 1 bits of a number in the signed range gives the number back. -/
theorem TwosComplement.signedRead_eq (h : TwosComplement k a x) : signedRead k x = a := by
  obtain ⟨z, hz, -, ⟨rfl, rfl⟩ | ⟨rfl, rfl⟩⟩ := h.low_bits
  · exact signedRead_of_lt hz
  · rw [signedRead_of_ge (by omega) (by omega)]
    push_cast
    ring

theorem TwosComplement.natCast (hx : x < 2 ^ k) : TwosComplement k x x := by
  have hx' : (x : Int) < 2 ^ k := by exact_mod_cast hx
  have hpow : (2 : Int) ^ (k + 1) = 2 * 2 ^ k := pow_succ' 2 k
  exact ⟨by omega, hx', (Int.emod_eq_of_lt (by omega) (by omega)).symm⟩

/-- R178: complementing every bit of a pattern turns `b` into `-1 - b`. -/
theorem TwosComplement.complement (h : TwosComplement k b y) :
    TwosComplement k (-1 - b) (2 ^ (k + 1) - 1 - y) := by
  obtain ⟨hlow, hhigh, hbits⟩ := h
  have hlt : (y : Int) < 2 ^ (k + 1) := hbits ▸ Int.emod_lt_of_pos b (by positivity)
  have hlt' : y < 2 ^ (k + 1) := by exact_mod_cast hlt
  refine ⟨by omega, by omega, ?_⟩
  rw [Nat.sub_sub, Nat.cast_sub (by omega)]
  push_cast
  rw [neg_one_sub_emod b (by positivity), hbits]
  omega

/-- R179: the exact sum leaves the signed range exactly when the carry into the top bit differs from the carry out. -/
theorem TwosComplement.overflow_add (ha : TwosComplement k a x) (hb : TwosComplement k b y) {c : Nat} (hc : c ≤ 1) :
    decide (¬ (-2 ^ k ≤ a + b + c ∧ a + b + c < 2 ^ k)) =
      (decide (2 ^ k ≤ x % 2 ^ k + y % 2 ^ k + c) ^^ decide (2 ^ (k + 1) ≤ x + y + c)) := by
  have hcast : ((2 ^ k : Nat) : Int) = 2 ^ k := by norm_cast
  obtain ⟨z, hz, hxz, hx⟩ := ha.low_bits
  obtain ⟨w, hw, hyw, hy⟩ := hb.low_bits
  rw [Bool.eq_iff_iff, Bool.xor_iff_ne, ne_eq, decide_eq_decide, decide_eq_true_iff, pow_succ', hxz, hyw]
  omega

/-- A number keeps its place in the signed range when more bits hold it. -/
theorem TwosComplement.widen (h : TwosComplement k a x) {l : Nat} (hkl : k ≤ l) :
    TwosComplement l a (a % 2 ^ (l + 1)).toNat := by
  have hpow : (2 : Int) ^ k ≤ 2 ^ l := by exact_mod_cast Nat.pow_le_pow_right two_pos hkl
  obtain ⟨hlow, hhigh, -⟩ := h
  exact ⟨by omega, by omega, Int.toNat_of_nonneg (Int.emod_nonneg a (by positivity))⟩

end twosComplement

/-- The signed reading of the low k + 1 bits of `r` is `r` exactly when `r` is in the signed range of k + 1 bits. -/
theorem signedRead_eq_iff {k w : Nat} {r : Int} (hw : (w : Int) = r % 2 ^ (k + 1)) :
    signedRead k w = r ↔ -2 ^ k ≤ r ∧ r < 2 ^ k := by
  have hlt : (w : Int) < 2 ^ (k + 1) := hw ▸ Int.emod_lt_of_pos r (by positivity)
  exact ⟨fun h => h ▸ signedRead_range (by exact_mod_cast hlt),
    fun ⟨hlow, hhigh⟩ => TwosComplement.signedRead_eq ⟨hlow, hhigh, hw⟩⟩

/-! ### A span whose EXT is its top bit (R36, R37) -/

/-- B^n for a span with digits, by the place of its top bit. -/
theorem Span.modulus_eq_top (c : Params) {p : Span} (hp : 1 ≤ p.size) :
    p.modulus c = 2 ^ (p.size * c.bits - 1 + 1) := by
  rw [p.modulus_eq, Nat.sub_add_cancel (Nat.mul_pos hp (by have := c.bits_pos; omega))]

theorem Span.radix_pow_eq_top (c : Params) {p : Span} (hp : 1 ≤ p.size) :
    (c.radix : Int) ^ p.size = 2 ^ (p.size * c.bits - 1 + 1) := by
  exact_mod_cast Span.modulus_eq_top c hp

/-- A span whose EXT is its top bit holds its digits read as a signed number. -/
theorem State.val_eq_signedRead (s : State) {p : Span} (hp : 1 ≤ p.size)
    (hext : p.ext = (s.valu p).testBit (p.size * s.cfg.bits - 1)) :
    s.val p = signedRead (p.size * s.cfg.bits - 1) (s.valu p) := by
  rw [State.val, signedRead, ← hext, Span.modulus_eq_top s.cfg hp]
  cases p.ext <;> simp

/-- The digits of a span whose EXT is its top bit are the pattern of its value. -/
theorem State.val_twosComplement (s : State) {p : Span} (hp : 1 ≤ p.size)
    (hext : p.ext = (s.valu p).testBit (p.size * s.cfg.bits - 1)) :
    TwosComplement (p.size * s.cfg.bits - 1) (s.val p) (s.valu p) := by
  have hmod := Span.modulus_eq_top s.cfg hp
  have hbits := s.val_emod_modulus p
  rw [hmod, Nat.cast_pow] at hbits
  have hrange := signedRead_range (hmod ▸ s.valu_lt p)
  rw [← s.val_eq_signedRead hp hext] at hrange
  exact ⟨hrange.1, hrange.2, hbits.symm⟩

/-! ### What a command leaves that writes back (R172 to R176) -/

theorem of_next {o : Host.Outcome State Fault Refusal} {t : State} {P : State → Prop} (h : ∃ t', o = .next t' ∧ P t')
    (hnext : o = .next t) : P t := by
  obtain ⟨t', ht', hP⟩ := h
  obtain rfl : t' = t := by simpa [ht'] using hnext
  exact hP

section results
variable {s t : State} {range : Range} {sd sa : SpanReg} {d : DigitReg} (hfit : s.Fits sd) (hcount : 1 ≤ s.count sd)
include hfit hcount

theorem incd_wroteBack (hexec : exec (.incd range sd d) s = .next t) :
    WroteBack s t sd range (s.valOf sd + s.readDr d) := by
  obtain ⟨-, -, -, hcompletes⟩ := incdAddsDigitToSpan range sd d s
  exact of_next (hcompletes hfit hcount) hexec

theorem decd_wroteBack (hexec : exec (.decd range sd d) s = .next t) :
    WroteBack s t sd range (s.valOf sd - s.readDr d) := by
  obtain ⟨-, -, -, hcompletes⟩ := decdSubtractsDigitFromSpan range sd d s
  exact of_next (hcompletes hfit hcount) hexec

theorem neg_wroteBack (hexec : exec (.neg range sd) s = .next t) : WroteBack s t sd range (-s.valOf sd) := by
  obtain ⟨-, -, -, hcompletes⟩ := negNegatesSpan range sd s
  exact of_next (hcompletes hfit hcount) hexec

theorem incs_wroteBack (hfit' : s.Fits sa) (hshare : s.MayShare sa sd)
    (hexec : exec (.incs range sd sa) s = .next t) : WroteBack s t sd range (s.valOf sd + s.valOf sa) := by
  obtain ⟨-, -, -, -, hcompletes⟩ := incsAddsSpanToSpan range sd sa s
  exact of_next (hcompletes hfit hfit' hcount hshare) hexec

theorem decs_wroteBack (hfit' : s.Fits sa) (hshare : s.MayShare sa sd)
    (hexec : exec (.decs range sd sa) s = .next t) : WroteBack s t sd range (s.valOf sd - s.valOf sa) := by
  obtain ⟨-, -, -, -, hcompletes⟩ := decsSubtractsSpanFromSpan range sd sa s
  exact of_next (hcompletes hfit hfit' hcount hshare) hexec

end results

/-! ### OVF is 0 exactly when the result is exact (R154, R170) -/

section writtenBack
variable {s t : State} {range : Range} {sd : SpanReg} {r : Int}

/-- R170: OVF after a signed write-back, by the place of the top bit. -/
theorem WroteBack.ovf_signed (h : WroteBack s t sd .signed r) (hcount : 1 ≤ s.count sd) :
    t.ovf = decide (¬ (-2 ^ (s.count sd * s.cfg.bits - 1) ≤ r ∧ r < 2 ^ (s.count sd * s.cfg.bits - 1))) := by
  obtain ⟨-, -, ⟨-, -, hovf, -⟩, -⟩ := h
  have hhalf : (s.cfg.radix : Int) ^ s.count sd / 2 = 2 ^ (s.count sd * s.cfg.bits - 1) := by
    rw [Span.radix_pow_eq_top s.cfg hcount, pow_succ, Int.mul_ediv_cancel _ two_ne_zero]
  rw [hovf, hhalf]

/-- The destination, read through the EXT that the write-back leaves, holds R exactly when R is in the result range. -/
theorem WroteBack.ovf_eq_false_iff (h : WroteBack s t sd range r) (hcount : 1 ≤ s.count sd) :
    t.ovf = false ↔ t.valOf sd = r := by
  have hwrote := h
  obtain ⟨hval, hspan, ⟨-, -, hovf, -, -, hcfg, -⟩, -⟩ := h
  cases range with
  | unsigned =>
    have hpos : (0 : Int) < (s.cfg.radix : Int) ^ s.count sd := by have := s.cfg.radix_pos; positivity
    have hvalOf : t.valOf sd = t.valu (s.span sd) := by simp [State.valOf, State.val, hspan]
    rw [hovf, hvalOf, hval, decide_eq_false_iff_not, not_not]
    exact ⟨fun ⟨hlow, hhigh⟩ => Int.emod_eq_of_lt hlow hhigh,
      fun hr => hr ▸ ⟨Int.emod_nonneg r hpos.ne', Int.emod_lt_of_pos r hpos⟩⟩
  | signed =>
    have hvalOf : t.valOf sd = signedRead (s.count sd * s.cfg.bits - 1) (t.valu (s.span sd)) := by
      rw [State.valOf, t.val_eq_signedRead (by rwa [hspan]) (by rw [hspan, hcfg]; rfl), hspan, hcfg]
      rfl
    rw [Span.radix_pow_eq_top s.cfg hcount] at hval
    rw [hwrote.ovf_signed hcount, decide_eq_false_iff_not, not_not, hvalOf]
    exact (signedRead_eq_iff hval).symm

end writtenBack

/-- Settles O22: each of the five commands writes back its exact result. -/
theorem overflowIffResultInexact : Obligations.OverflowIffResultInexact := by
  intro s t range sd sa d hfit hcount
  refine ⟨fun h => ?_, fun h => ?_, fun h => ?_, fun hfit' hshare => ⟨fun h => ?_, fun h => ?_⟩⟩
  · exact (incd_wroteBack hfit hcount h).ovf_eq_false_iff hcount
  · exact (decd_wroteBack hfit hcount h).ovf_eq_false_iff hcount
  · exact (neg_wroteBack hfit hcount h).ovf_eq_false_iff hcount
  · exact (incs_wroteBack hfit hcount hfit' hshare h).ovf_eq_false_iff hcount
  · exact (decs_wroteBack hfit hcount hfit' hshare h).ovf_eq_false_iff hcount

/-! ### The overflow laws of the chain (R179) -/

section chainLaws
variable {s t : State} {sd : SpanReg} {x y : Nat}

/-- Unsigned addition: OVF is the carry out. -/
theorem WroteBack.ovf_eq_carry (h : WroteBack s t sd .unsigned ((x : Int) + y)) :
    t.ovf = decide (s.cfg.radix ^ s.count sd ≤ x + y + 0) := by
  obtain ⟨-, -, ⟨-, -, hovf, -⟩, -⟩ := h
  rw [hovf, ← Nat.cast_pow, decide_eq_decide]
  omega

/-- Unsigned subtraction: OVF is the borrow, which the complement chain has as no carry out. -/
theorem WroteBack.ovf_eq_borrow (h : WroteBack s t sd .unsigned ((x : Int) - y)) (hx : x < s.cfg.radix ^ s.count sd)
    (hy : y < s.cfg.radix ^ s.count sd) :
    t.ovf = !decide (s.cfg.radix ^ s.count sd ≤ x + (s.cfg.radix ^ s.count sd - 1 - y) + 1) := by
  obtain ⟨-, -, ⟨-, -, hovf, -⟩, -⟩ := h
  rw [hovf, ← Nat.cast_pow, ← decide_not, decide_eq_decide]
  omega

/-- Signed: OVF is the carry into the top bit XOR the carry out of it. -/
theorem WroteBack.ovf_eq_topXor {r a b : Int} {c : Nat} (h : WroteBack s t sd .signed r) (hcount : 1 ≤ s.count sd)
    (ha : TwosComplement (s.count sd * s.cfg.bits - 1) a x) (hb : TwosComplement (s.count sd * s.cfg.bits - 1) b y)
    (hc : c ≤ 1) (hr : r = a + b + c) :
    t.ovf = (decide (2 ^ (s.count sd * s.cfg.bits - 1) ≤
        x % 2 ^ (s.count sd * s.cfg.bits - 1) + y % 2 ^ (s.count sd * s.cfg.bits - 1) + c) ^^
      decide (s.cfg.radix ^ s.count sd ≤ x + y + c)) := by
  rw [h.ovf_signed hcount, hr, ha.overflow_add hb hc, ← Span.modulus_eq_top s.cfg hcount, Span.modulus]

/-- The complement of an n-digit pattern, as the subtracting chain reads it. -/
theorem TwosComplement.complement_digits {b : Int} (hcount : 1 ≤ s.count sd)
    (h : TwosComplement (s.count sd * s.cfg.bits - 1) b y) :
    TwosComplement (s.count sd * s.cfg.bits - 1) (-1 - b) (s.cfg.radix ^ s.count sd - 1 - y) := by
  have hmod := Span.modulus_eq_top s.cfg hcount
  rw [Span.modulus] at hmod
  exact hmod ▸ h.complement

/-- A digit is below B^n for every span with digits. -/
theorem State.readDr_lt_radix_pow (d : DigitReg) (hcount : 1 ≤ s.count sd) : s.readDr d < s.cfg.radix ^ s.count sd :=
  (s.readDr_lt d).trans_le (Nat.le_self_pow (by omega) _)

/-- A digit whose top bit is 0 is its own pattern in every span with digits. -/
theorem State.readDr_twosComplement {d : DigitReg} (hcount : 1 ≤ s.count sd)
    (htop : (s.readDr d).testBit (s.cfg.bits - 1) = false) :
    TwosComplement (s.count sd * s.cfg.bits - 1) (s.readDr d) (s.readDr d) := by
  have hbits := s.cfg.bits_pos
  have hlt : s.readDr d < 2 ^ (s.cfg.bits - 1 + 1) := by
    rw [Nat.sub_add_cancel (by omega)]
    exact s.readDr_lt d
  rw [testBit_top hlt, decide_eq_false_iff_not, not_le] at htop
  exact .natCast (htop.trans_le (Nat.pow_le_pow_right two_pos
    (Nat.sub_le_sub_right (Nat.le_mul_of_pos_left _ hcount) 1)))

end chainLaws

/-- Settles O23: the unsigned laws by comparison with B^n, the signed ones by the two's-complement carries. -/
theorem overflowLawsOfChain : Obligations.OverflowLawsOfChain := by
  intro s t sd sa d hfit hcount m k topBit carryOut carryIn topXor digit pattern
  have hval : ∀ j, s.extBit j = false → s.valOf j = s.valuOf j := fun j hj => by simp [State.val, hj]
  have hdigit : digit < m := s.readDr_lt_radix_pow d hcount
  refine ⟨fun hext => ⟨fun h => ?_, fun h => ?_, fun hfit' hshare hext' hle => ?_⟩,
    fun hext => ⟨fun htop => ?_, fun h => ?_, fun hfit' hshare hcount' hle hext' => ?_⟩⟩
  · have hwrote := incd_wroteBack hfit hcount h
    rw [hval sd hext] at hwrote
    exact hwrote.ovf_eq_carry
  · have hwrote := decd_wroteBack hfit hcount h
    rw [hval sd hext] at hwrote
    exact hwrote.ovf_eq_borrow (s.valu_lt _) hdigit
  · have hsa : s.valuOf sa < m := (s.valu_lt _).trans_le (Nat.pow_le_pow_right s.cfg.radix_pos hle)
    refine ⟨fun h => ?_, fun h => ?_⟩
    · have hwrote := incs_wroteBack hfit hcount hfit' hshare h
      rw [hval sd hext, hval sa hext'] at hwrote
      exact hwrote.ovf_eq_carry
    · have hwrote := decs_wroteBack hfit hcount hfit' hshare h
      rw [hval sd hext, hval sa hext'] at hwrote
      exact hwrote.ovf_eq_borrow (s.valu_lt _) hsa
  · have hsd := s.val_twosComplement hcount hext
    have hd := State.readDr_twosComplement hcount htop
    refine ⟨fun h => ?_, fun h => ?_⟩
    · exact (incd_wroteBack hfit hcount h).ovf_eq_topXor hcount hsd hd zero_le_one (by simp)
    · exact (decd_wroteBack hfit hcount h).ovf_eq_topXor hcount hsd (hd.complement_digits hcount) le_rfl
        (by push_cast; ring)
  · have hsd := s.val_twosComplement hcount hext
    exact (neg_wroteBack hfit hcount h).ovf_eq_topXor hcount (.natCast (Nat.two_pow_pos _))
      (hsd.complement_digits hcount) le_rfl (by push_cast; ring)
  · have hsd := s.val_twosComplement hcount hext
    have hsa := (s.val_twosComplement hcount' hext').widen
      (Nat.sub_le_sub_right (Nat.mul_le_mul_right s.cfg.bits hle) 1)
    rw [← Span.radix_pow_eq_top s.cfg hcount, ← Nat.cast_pow] at hsa
    refine ⟨fun h => ?_, fun h => ?_⟩
    · exact (incs_wroteBack hfit hcount hfit' hshare h).ovf_eq_topXor hcount hsd hsa zero_le_one (by simp)
    · exact (decs_wroteBack hfit hcount hfit' hshare h).ovf_eq_topXor hcount hsd (hsa.complement_digits hcount) le_rfl
        (by push_cast; ring)

/-! ### Subtracting what was added (R180) -/

/-- A span that the write-back leaves alone keeps its value. -/
theorem WroteBack.valOf_of_apart {s t : State} {sd sa : SpanReg} {range : Range} {r : Int}
    (h : WroteBack s t sd range r) (hne : sa ≠ sd) (hapart : ¬ s.Overlaps sa sd) : t.valOf sa = s.valOf sa := by
  obtain ⟨-, -, ⟨-, -, -, -, -, hcfg, -⟩, hdigits, hspans, -⟩ := h
  have hspan : t.span sa = s.span sa := hspans sa (by simpa using hne)
  have hvalu : t.valu (s.span sa) = s.valu (s.span sa) := State.valu_congr rfl rfl hcfg fun a ha =>
    hdigits a (by
      simp only [List.mem_singleton, forall_eq]
      exact Bool.eq_false_iff.2 fun hd => hapart ⟨a, ha, hd⟩)
  simp only [State.valOf, State.val, hspan, hvalu, hcfg]

/-- The destination read again after a write-back is R modulo B^n. -/
theorem WroteBack.valOf_emod {s t : State} {sd : SpanReg} {range : Range} {r : Int} (h : WroteBack s t sd range r) :
    t.valOf sd % (s.cfg.radix : Int) ^ s.count sd = r % (s.cfg.radix : Int) ^ s.count sd := by
  obtain ⟨hval, hspan, ⟨-, -, -, -, -, hcfg, -⟩, -⟩ := h
  have hmod := t.val_emod_modulus (t.span sd)
  rw [hspan, hcfg, State.valu_withExt, Span.modulus, Nat.cast_pow] at hmod
  rw [State.valOf, hspan, ← hval]
  exact hmod

/-- Writing back a number with the digits that `s` holds at `sd` makes `sd` what it was in `s`, when its EXT there is
what R170 leaves for those digits. -/
theorem WroteBack.restores {s t u : State} {sd : SpanReg} {range : Range} {r : Int} (h : WroteBack t u sd range r)
    {e : Bool} (hspan : t.span sd = { s.span sd with ext := e }) (hcfg : t.cfg = s.cfg)
    (hr : r % (s.cfg.radix : Int) ^ s.count sd = s.valuOf sd)
    (hext : s.extBit sd = resultExt range (s.count sd * s.cfg.bits) (s.valuOf sd)) :
    u.valuOf sd = s.valuOf sd ∧ u.span sd = s.span sd ∧ u.valOf sd = s.valOf sd := by
  obtain ⟨hval, hspanU, ⟨-, -, -, -, -, hcfgU, -⟩, -⟩ := h
  rw [State.count, hspan, State.valu_withExt, hcfg] at hval
  have hdigits : u.valu (s.span sd) = s.valuOf sd := by exact_mod_cast hval.trans hr
  rw [State.count, hspan, State.valu_withExt, hcfg, hdigits] at hspanU
  have hsame : u.span sd = s.span sd := by
    rw [hspanU]
    cases range <;> exact congrArg (Span.mk _ _) hext.symm
  have hvalu : u.valuOf sd = s.valuOf sd := by rw [State.valuOf, hsame, hdigits]
  refine ⟨hvalu, hsame, ?_⟩
  simp only [State.valOf, State.val, hsame, hdigits, hcfgU, hcfg]

/-- Settles O24: the second result has the digits that sd started with, and each OVF says whether the first sum was
exact. -/
theorem subtractAfterAddRestores : Obligations.SubtractAfterAddRestores := by
  intro s range sd sa hfit hfit' hcount hne hapart hext
  obtain ⟨-, -, -, -, hincs⟩ := incsAddsSpanToSpan range sd sa s
  obtain ⟨t, ht, hadd⟩ := hincs hfit hfit' hcount (.inl hapart)
  have hsa : t.valOf sa = s.valOf sa := hadd.valOf_of_apart hne hapart
  have haddOvf := hadd.ovf_eq_false_iff hcount
  have hsum := hadd.valOf_emod
  obtain ⟨-, hspan, ⟨-, -, -, -, -, hcfg, -⟩, -, hspans, -⟩ := hadd
  have hspan' : t.span sa = s.span sa := hspans sa (by simpa using hne)
  have hcount' : 1 ≤ t.count sd := by rwa [State.count, hspan]
  obtain ⟨-, -, -, -, hdecs⟩ := decsSubtractsSpanFromSpan range sd sa t
  obtain ⟨u, hu, hsub⟩ := hdecs (by rwa [State.Fits, hspan, hcfg]) (by rwa [State.Fits, hspan', hcfg]) hcount'
    (.inl (by rwa [State.Overlaps, hspan, hspan']))
  have hr : (t.valOf sd - t.valOf sa) % (s.cfg.radix : Int) ^ s.count sd = s.valuOf sd := by
    have hval := s.val_emod_modulus (s.span sd)
    rw [Span.modulus, Nat.cast_pow] at hval
    rw [hsa, ← Int.emod_sub_emod, hsum, Int.emod_sub_emod, add_sub_cancel_right]
    exact hval
  obtain ⟨hdigits, hsame, hback⟩ := hsub.restores hspan hcfg hr (by cases range <;> exact hext)
  have hexact : u.ovf = false ↔ t.ovf = false := by
    rw [hsub.ovf_eq_false_iff hcount', haddOvf, hback, hsa]
    omega
  rw [← Bool.not_eq_true, ← Bool.not_eq_true, not_iff_not, ← Bool.eq_iff_iff] at hexact
  exact ⟨t, u, ht, hu, hdigits, hsame, hexact⟩

end Sys2Proof.Machine
end

section
/-! SUPPORT. Proofs of the statements about the carry chains of the adder and of the digit multiplier (41_adder,
42_multiply). -/

namespace Sys2Proof.Machine

/-! ### The digits of a number in two's complement without end (R36) -/

/-- `x` gives the digits of `r` in base `b`, all of them. -/
def HasDigits (b : Nat) (r : Int) (x : Nat → Nat) : Prop := ∀ i, r / (b : Int) ^ i % (b : Int) = x i

/-- R36, R37: `digitAt` gives the digits of a span's value. -/
theorem State.digitAt_hasDigits (s : State) (p : Span) : HasDigits s.cfg.radix (s.val p) (s.digitAt p) :=
  spanValueHasDigitAtDigits s p

theorem hasDigits_zero (b : Nat) : HasDigits b 0 fun _ => 0 := fun i => by simp

/-- A digit by itself is a number of one digit. -/
theorem hasDigits_digit {b d : Nat} (hd : d < b) : HasDigits b d fun j => if j = 0 then d else 0 := by
  intro i
  cases i with
  | zero => simpa using Int.emod_eq_of_lt (by omega) (by exact_mod_cast hd)
  | succ i =>
    have hlt : (d : Int) < (b : Int) ^ (i + 1) := by exact_mod_cast hd.trans_le (Nat.le_self_pow (by omega) b)
    rw [Int.ediv_eq_zero_of_lt (by omega) hlt]
    rfl

section hasDigits
variable {b : Nat} (hb : 0 < b) {r : Int} {x : Nat → Nat}
include hb

theorem HasDigits.lt (h : HasDigits b r x) (i : Nat) : x i < b := by
  have hlt := Int.emod_lt_of_pos (r / (b : Int) ^ i) (by exact_mod_cast hb : (0 : Int) < b)
  rw [h i] at hlt
  exact_mod_cast hlt

/-- A number from its digit i up is that digit and, one place further up, the number from digit i + 1 up. -/
theorem HasDigits.ediv_eq (h : HasDigits b r x) (i : Nat) :
    r / (b : Int) ^ i = x i + b * (r / (b : Int) ^ (i + 1)) := by
  have hdiv := Int.emod_add_mul_ediv (r / (b : Int) ^ i) b
  rw [h i, Int.ediv_ediv_of_nonneg (by positivity), ← pow_succ] at hdiv
  exact hdiv.symm

/-- R178: the digits' complements, which the subtracting chain takes, are the digits of `-1 - r`. -/
theorem HasDigits.complement (h : HasDigits b r x) : HasDigits b (-1 - r) fun j => b - 1 - x j := by
  intro i
  have hlt := h.lt hb i
  rw [neg_one_sub_ediv r (by positivity), neg_one_sub_emod _ (by exact_mod_cast hb), h i]
  change (b : Int) - 1 - x i = (b - 1 - x i : Nat)
  omega

/-- The low digits of a number are its least digit and, one place further up, the low digits of the rest. -/
theorem emod_pow_succ {d : Nat} (hd : d < b) (q : Int) (n : Nat) :
    (d + b * q) % (b : Int) ^ (n + 1) = d + b * (q % (b : Int) ^ n) := by
  have hpow : (0 : Int) < (b : Int) ^ n := by positivity
  have hlow := Int.emod_nonneg q hpow.ne'
  have hhigh := Int.emod_lt_of_pos q hpow
  have hsplit : d + b * q = d + b * (q % (b : Int) ^ n) + (b : Int) ^ (n + 1) * (q / (b : Int) ^ n) := by
    rw [pow_succ]
    linear_combination -(b : Int) * Int.emod_add_mul_ediv q ((b : Int) ^ n)
  rw [hsplit, Int.add_mul_emod_self_left, Int.emod_eq_of_lt (by positivity)]
  calc (d + b * (q % (b : Int) ^ n) : Int)
    _ < b * (q % (b : Int) ^ n + 1) := by rw [mul_add, mul_one]; omega
    _ ≤ (b : Int) ^ (n + 1) := by rw [pow_succ']; gcongr; omega

end hasDigits

/-! ### The adder's chain (R178) -/

@[simp] theorem length_addChain (b : Nat) (sub : Bool) (x y : Nat → Nat) (j c len : Nat) :
    (addChain b sub x y j c len).length = len := by
  induction len generalizing j c with
  | zero => rfl
  | succ len ih => rw [addChain, List.length_cons, ih]

theorem addChain_lt {b : Nat} (hb : 0 < b) (sub : Bool) (x y : Nat → Nat) (j c len : Nat) :
    ∀ d ∈ addChain b sub x y j c len, d < b := by
  induction len generalizing j c with
  | zero => simp [addChain]
  | succ len ih =>
    rw [addChain, List.forall_mem_cons]
    exact ⟨Nat.mod_lt _ hb, ih _ _⟩

/-- The chain's digits are the low digits of the sum of what it adds, `y'` being the operand's digits or complements. -/
theorem listValue_addChain {b : Nat} (hb : 0 < b) {sub : Bool} {x y : Nat → Nat} {p q : Int} (hx : HasDigits b p x)
    (hy : HasDigits b q fun j => if sub then b - 1 - y j else y j) (j c len : Nat) :
    (listValue b (addChain b sub x y j c len) : Int) =
      (p / (b : Int) ^ j + q / (b : Int) ^ j + c) % (b : Int) ^ len := by
  induction len generalizing j c with
  | zero => simp [addChain, listValue]
  | succ len ih =>
    have hyj := hy.ediv_eq hb j
    rw [addChain]
    generalize (if sub then b - 1 - y j else y j) = z at hyj ⊢
    have hdigit : ((x j + z + c : Nat) : Int) = ((x j + z + c) % b : Nat) + b * ((x j + z + c) / b : Nat) := by
      exact_mod_cast (Nat.mod_add_div _ b).symm
    have hsum : p / (b : Int) ^ j + q / (b : Int) ^ j + c = ((x j + z + c) % b : Nat) +
        b * (p / (b : Int) ^ (j + 1) + q / (b : Int) ^ (j + 1) + ((x j + z + c) / b : Nat)) := by
      rw [hx.ediv_eq hb j, hyj]
      rw [Nat.cast_add, Nat.cast_add] at hdigit
      linear_combination hdigit
    rw [hsum, emod_pow_succ hb (Nat.mod_lt _ hb), listValue, Nat.cast_add, Nat.cast_mul, ih]

/-- The digits of a list are those of Mathlib's `Nat.ofDigits`. -/
theorem listValue_eq_ofDigits (b : Nat) (ds : List Nat) : listValue b ds = Nat.ofDigits b ds := by
  induction ds with
  | nil => rfl
  | cons d ds ih => rw [listValue, Nat.ofDigits_cons, ih]

/-- R178: the top bit of the last of `len` digits is the top bit of all their bits, so the chain's result is signed. -/
theorem chainResult_eq_signedRead {bits n : Nat} (hbits : 1 ≤ bits) {out : List Nat} (hlen : out.length = n + 1)
    (hlt : ∀ d ∈ out, d < 2 ^ bits) :
    chainResult bits (n + 1) out = signedRead ((n + 1) * bits - 1) (listValue (2 ^ bits) out) := by
  have htop : listValue (2 ^ bits) out / 2 ^ (bits * n) = out.getD n 0 := by
    rw [listValue_eq_ofDigits, pow_mul, Nat.ofDigits_div_pow_eq_ofDigits_drop n (by positivity) out hlt,
      List.drop_eq_getElem_cons (by omega), List.drop_of_length_le (by omega), Nat.ofDigits_singleton,
      List.getD_eq_getElem _ _ (by omega)]
  have hplace : bits - 1 + bits * n = (n + 1) * bits - 1 := by
    rw [Nat.add_mul, one_mul, mul_comm n bits]
    omega
  rw [chainResult, signedRead, Nat.add_sub_cancel, ← htop, Nat.testBit_div_two_pow, hplace, ← pow_mul, mul_comm bits,
    Nat.sub_add_cancel (Nat.mul_pos n.succ_pos hbits)]

/-- One guard digit of at least 3 bits leaves room for a sum or a difference, whatever the carry in. -/
theorem guard_digit_range {bits n : Nat} (hbits : 3 ≤ bits) {r : Int} (hlow : -2 * (2 ^ bits) ^ n ≤ r)
    (hhigh : r ≤ 2 * (2 ^ bits) ^ n) : -2 ^ ((n + 1) * bits - 1) ≤ r ∧ r < 2 ^ ((n + 1) * bits - 1) := by
  have hplace : (n + 1) * bits - 1 = bits * n + 2 + (bits - 3) := by
    rw [Nat.add_mul, one_mul, mul_comm n bits]
    omega
  have hroom : (4 * (2 ^ bits) ^ n : Int) ≤ 2 ^ ((n + 1) * bits - 1) := by
    rw [hplace, ← pow_mul, pow_add, pow_add, mul_comm]
    exact le_mul_of_one_le_right (by positivity) (one_le_pow₀ one_le_two)
  have hpos : (0 : Int) < (2 ^ bits) ^ n := by positivity
  constructor <;> linarith

/-- R178: the adder gives the exact sum or difference of two numbers of at most n and m digits and a sign. -/
theorem adderResult_eq {bits n m : Nat} (hbits : 3 ≤ bits) (sub : Bool) {x y : Nat → Nat} {p q : Int}
    (hx : HasDigits (2 ^ bits) p x) (hy : HasDigits (2 ^ bits) q y)
    (hp : -(2 ^ bits) ^ n ≤ p ∧ p < (2 ^ bits) ^ n) (hq : -(2 ^ bits) ^ m ≤ q ∧ q < (2 ^ bits) ^ m) :
    adderResult bits sub n m x y = if sub then p - q else p + q := by
  have hb : 0 < 2 ^ bits := Nat.two_pow_pos bits
  have hpow {k : Nat} (hk : k ≤ max n m) : ((2 ^ bits) ^ k : Int) ≤ (2 ^ bits) ^ max n m :=
    pow_le_pow_right₀ (one_le_pow₀ one_le_two) hk
  have hn := hpow (le_max_left n m)
  have hm := hpow (le_max_right n m)
  rw [adderResult, chainResult_eq_signedRead (by omega) (length_addChain _ _ _ _ _ _ _) (addChain_lt hb _ _ _ _ _ _)]
  have hexp : (((2 ^ bits : Nat) : Int)) ^ (max n m + 1) = 2 ^ ((max n m + 1) * bits - 1 + 1) := by
    rw [Nat.sub_add_cancel (Nat.mul_pos (Nat.succ_pos _) (by omega)), mul_comm, pow_mul]
    norm_cast
  cases sub with
  | false =>
    have hchain := listValue_addChain (sub := false) hb hx hy 0 0 (max n m + 1)
    simp only [pow_zero, Int.ediv_one, Nat.cast_zero, add_zero, hexp] at hchain
    exact (signedRead_eq_iff hchain).2 (guard_digit_range hbits (by linarith) (by linarith))
  | true =>
    have hchain := listValue_addChain (sub := true) hb hx (hy.complement hb) 0 1 (max n m + 1)
    have hdiff : p + (-1 - q) + 1 = p - q := by ring
    simp only [pow_zero, Int.ediv_one, Nat.cast_one, hdiff, hexp] at hchain
    exact (signedRead_eq_iff hchain).2 (guard_digit_range hbits (by linarith) (by linarith))

/-- A value is at least -B^n, whatever its EXT. -/
theorem State.neg_modulus_le_val (s : State) (p : Span) : -(p.modulus s.cfg : Int) ≤ s.val p := by
  unfold State.val
  split <;> omega

/-- R37: a span's value has n digits and a sign. -/
theorem State.val_range (s : State) (p : Span) :
    -(2 ^ s.cfg.bits) ^ p.size ≤ s.val p ∧ s.val p < (2 ^ s.cfg.bits) ^ p.size := by
  have hmod : (p.modulus s.cfg : Int) = (2 ^ s.cfg.bits) ^ p.size := by
    rw [Span.modulus, Params.radix]
    norm_cast
  exact hmod ▸ ⟨s.neg_modulus_le_val p, s.val_lt p⟩

/-- Settles O29: the chain's operands are the digits of the spans' values, of a digit, and of 0. -/
theorem adderChainGivesExactSum : Obligations.AdderChainGivesExactSum := by
  intro s p q d dig
  have hbits : 3 ≤ s.cfg.bits := le_trans (by norm_num) s.cfg.bits_pos
  have hp : HasDigits (2 ^ s.cfg.bits) (s.val p) (s.digitAt p) := s.digitAt_hasDigits p
  have hq : HasDigits (2 ^ s.cfg.bits) (s.val q) (s.digitAt q) := s.digitAt_hasDigits q
  have hd : HasDigits (2 ^ s.cfg.bits) (s.readDr d) dig := hasDigits_digit (s.readDr_lt d)
  have hlt : (s.readDr d : Int) < (2 ^ s.cfg.bits) ^ 1 := by
    rw [pow_one]
    exact_mod_cast s.readDr_lt d
  have hdRange : -(2 ^ s.cfg.bits) ^ 1 ≤ (s.readDr d : Int) ∧ (s.readDr d : Int) < (2 ^ s.cfg.bits) ^ 1 :=
    ⟨by omega, hlt⟩
  have hzero : -(2 ^ s.cfg.bits) ^ p.size ≤ (0 : Int) ∧ (0 : Int) < (2 ^ s.cfg.bits) ^ p.size := by
    constructor <;> simp
  refine ⟨?_, ?_, ?_, ?_, ?_⟩
  · exact adderResult_eq hbits false hp hq (s.val_range p) (s.val_range q)
  · exact adderResult_eq hbits true hp hq (s.val_range p) (s.val_range q)
  · exact adderResult_eq hbits false hp hd (s.val_range p) hdRange
  · exact adderResult_eq hbits true hp hd (s.val_range p) hdRange
  · exact (adderResult_eq hbits true (hasDigits_zero _) hp hzero (s.val_range p)).trans (zero_sub _)

/-! ### The multiply-accumulate chain (R178, R212) -/

@[simp] theorem length_macChain (b m : Nat) (x y : Nat → Nat) (j c n : Nat) :
    (macChain b m x y j c n).1.length = n := by
  induction n generalizing j c with
  | zero => rfl
  | succ n ih => rw [macChain, List.length_cons, ih]

theorem macChain_lt {b : Nat} (hb : 0 < b) (m : Nat) (x y : Nat → Nat) (j c n : Nat) :
    ∀ d ∈ (macChain b m x y j c n).1, d < b := by
  induction n generalizing j c with
  | zero => simp [macChain]
  | succ n ih =>
    rw [macChain, List.forall_mem_cons]
    exact ⟨Nat.mod_lt _ hb, ih _ _⟩

/-- Every carry of the chain is a digit when the first one and the multiplier are. -/
theorem macChain_carry_lt {b m : Nat} {x y : Nat → Nat} (hx : ∀ i, x i < b) (hy : ∀ i, y i < b) (hm : m < b) {c : Nat}
    (hc : c < b) (j n : Nat) : (macChain b m x y j c n).2 < b := by
  induction n generalizing j c with
  | zero => exact hc
  | succ n ih =>
    rw [macChain]
    exact ih (mac_div_lt (hx j) (hy j) hm hc) (j + 1)

/-- The chain's digits and its last carry are the sum of what it accumulates over n digits. -/
theorem listValue_macChain {b : Nat} (hb : 0 < b) (m : Nat) {x y : Nat → Nat} {p q : Int} (hx : HasDigits b p x)
    (hy : HasDigits b q y) (j c n : Nat) :
    (listValue b (macChain b m x y j c n).1 + (macChain b m x y j c n).2 * (b : Int) ^ n : Int) =
      p / (b : Int) ^ j % (b : Int) ^ n + q / (b : Int) ^ j % (b : Int) ^ n * m + c := by
  induction n generalizing j c with
  | zero => simp [macChain, listValue]
  | succ n ih =>
    have hdigit : ((x j + y j * m + c : Nat) : Int) =
        ((x j + y j * m + c) % b : Nat) + b * ((x j + y j * m + c) / b : Nat) := by
      exact_mod_cast (Nat.mod_add_div _ b).symm
    have hrest := ih (j + 1) ((x j + y j * m + c) / b)
    rw [macChain, listValue, hx.ediv_eq hb j, hy.ediv_eq hb j, emod_pow_succ hb (hx.lt hb j),
      emod_pow_succ hb (hy.lt hb j), pow_succ]
    push_cast at hdigit hrest ⊢
    linear_combination (b : Int) * hrest - hdigit

/-- A span with EXT 0 holds a number of its own digits. -/
theorem State.val_emod_of_not_ext (s : State) {p : Span} (hext : p.ext = false) {n : Nat} (hle : p.size ≤ n) :
    s.val p % (s.cfg.radix : Int) ^ n = s.valu p := by
  have hlt : (s.valu p : Int) < (s.cfg.radix : Int) ^ n := by
    exact_mod_cast (s.valu_lt p).trans_le (Nat.pow_le_pow_right s.cfg.radix_pos hle)
  have hval : s.val p = s.valu p := by simp [State.val, hext]
  rw [hval, Int.emod_eq_of_lt (by omega) hlt]

/-- Settles O30: MACD's chain accumulates the digits of two spans with EXT 0, MULD's those of 0 and of one. -/
theorem multiplyChainGivesDigitsAndCarry : Obligations.MultiplyChainGivesDigitsAndCarry := by
  intro s p q m a hextp hextq hle hm ha macd muld
  have hb := s.cfg.radix_pos
  have hp := s.digitAt_hasDigits p
  have hq := s.digitAt_hasDigits q
  refine ⟨?_, ?_, length_macChain _ _ _ _ _ _ _, length_macChain _ _ _ _ _ _ _, macChain_lt hb _ _ _ _ _ _,
    macChain_lt hb _ _ _ _ _ _, fun n _ => macChain_carry_lt (hp.lt hb) (hq.lt hb) hm ha 0 n⟩
  · have hchain := listValue_macChain hb m hp hq 0 a p.size
    rw [pow_zero, Int.ediv_one, Int.ediv_one, s.val_emod_of_not_ext hextp le_rfl,
      s.val_emod_of_not_ext hextq hle] at hchain
    exact_mod_cast hchain
  · have hchain := listValue_macChain hb m (hasDigits_zero _) hp 0 a p.size
    rw [pow_zero, Int.ediv_one, Int.ediv_one, s.val_emod_of_not_ext hextp le_rfl, Int.zero_emod, zero_add] at hchain
    exact_mod_cast hchain

end Sys2Proof.Machine
end

section
/-! SUPPORT. Proofs of the statements about the digit divider and normalized long division (43_divide). -/

namespace Sys2Proof.Machine

/-! ### The digit divider (R255) -/

/-- The division identity with a remainder below the divisor determines quotient and remainder. -/
theorem eq_div_mod_of_identity {u v q r : Nat} (h : q * v + r = u) (hr : r < v) : q = u / v ∧ r = u % v := by
  obtain ⟨hquot, hrem⟩ := (Nat.div_mod_unique (by omega)).2 ⟨(by rw [← h]; ring : r + v * q = u), hr⟩
  exact ⟨hquot.symm, hrem.symm⟩

theorem listValue_append (b : Nat) (xs ys : List Nat) :
    listValue b (xs ++ ys) = listValue b xs + b ^ xs.length * listValue b ys := by
  simp only [listValue_eq_ofDigits, Nat.ofDigits_append]

/-- A list whose most-significant digit is `d`. -/
theorem listValue_concat (b : Nat) (xs : List Nat) (d : Nat) :
    listValue b (xs ++ [d]) = listValue b xs + b ^ xs.length * d := by
  rw [listValue_append, listValue, listValue, mul_zero, add_zero]

@[simp] theorem length_digitDivide (b v r : Nat) (ds : List Nat) : (digitDivide b v r ds).1.length = ds.length := by
  induction ds generalizing r with
  | nil => rfl
  | cons d ds ih => rw [digitDivide, List.length_cons, ih, List.length_cons]

/-- R255: a running remainder below the divisor makes every step's quotient a digit. -/
theorem digitDivide_lt {b v r : Nat} (hr : r < v) {ds : List Nat} (hds : ∀ d ∈ ds, d < b) :
    ∀ q ∈ (digitDivide b v r ds).1, q < b := by
  induction ds generalizing r with
  | nil => simp [digitDivide]
  | cons d ds ih =>
    rw [List.forall_mem_cons] at hds
    obtain ⟨hd, hds⟩ := hds
    rw [digitDivide, List.forall_mem_cons]
    have hfits : r * b + d < v * b :=
      calc r * b + d
        _ < (r + 1) * b := by rw [Nat.add_mul, one_mul]; omega
        _ ≤ v * b := Nat.mul_le_mul_right b hr
    exact ⟨Nat.div_lt_of_lt_mul hfits, ih (Nat.mod_lt _ (by omega)) hds⟩

/-- R255: the running remainder stands before the digits still to come, most-significant first. -/
theorem digitDivide_spec {b v r : Nat} (hr : r < v) (ds : List Nat) :
    listValue b (digitDivide b v r ds).1.reverse * v + (digitDivide b v r ds).2 =
      r * b ^ ds.length + listValue b ds.reverse ∧ (digitDivide b v r ds).2 < v := by
  induction ds generalizing r with
  | nil => simp [digitDivide, listValue, hr]
  | cons d ds ih =>
    obtain ⟨hval, hlt⟩ := ih (Nat.mod_lt (r * b + d) (by omega))
    refine ⟨?_, hlt⟩
    have hdiv := Nat.mod_add_div (r * b + d) v
    simp only [digitDivide, List.reverse_cons, listValue_concat, List.length_reverse, length_digitDivide,
      List.length_cons, pow_succ]
    linear_combination hval + b ^ ds.length * hdiv

/-- Settles O33: the chain starts with no remainder, and quotient and remainder are unique. -/
theorem digitDividerGivesQuotient : Obligations.DigitDividerGivesQuotient := by
  intro b v ds _ hv _ hds out
  obtain ⟨hval, hlt⟩ := digitDivide_spec (b := b) hv ds.reverse
  rw [zero_mul, zero_add, List.reverse_reverse] at hval
  obtain ⟨hquot, hrem⟩ := eq_div_mod_of_identity hval hlt
  exact ⟨hquot, hrem, by simp [out], digitDivide_lt hv (by simpa using hds)⟩

/-! ### One quotient digit of long division (R256, R257) -/

/-- R256: an estimate that is not below `x / v` is corrected down to it, one step for each that it is above. -/
theorem addBack_eq {v x : Nat} (hv : 0 < v) {qh : Nat} (hq : x / v ≤ qh) :
    addBack v qh ((x : Int) - (qh : Int) * (v : Int)) = (x / v, ((x % v : Nat) : Int), qh - x / v) := by
  induction qh with
  | zero =>
    have hq0 : x / v = 0 := Nat.le_zero.1 hq
    have hx : x % v = x := Nat.mod_eq_of_lt ((Nat.div_eq_zero_iff_lt hv).1 hq0)
    simp [addBack, hq0, hx]
  | succ qh ih =>
    rw [addBack]
    split
    next hneg =>
      have hle : x / v ≤ qh := Nat.le_of_lt_succ ((Nat.div_lt_iff_lt_mul hv).2 (by zify; push_cast at hneg; linarith))
      have hback : (x : Int) - ((qh + 1 : Nat) : Int) * v + v = x - (qh : Int) * v := by push_cast; ring
      rw [hback, ih hle]
      simp only [Nat.sub_add_comm hle]
    next hnonneg =>
      have hge : qh + 1 ≤ x / v := (Nat.le_div_iff_mul_le hv).2 (by zify; push_cast at hnonneg; linarith)
      have hexact : qh + 1 = x / v := le_antisymm hge hq
      have hrem : (x : Int) - ((qh + 1 : Nat) : Int) * v = (x % v : Nat) := by
        rw [hexact]
        have := Nat.div_add_mod x v
        zify at this ⊢
        linarith
      rw [hrem, hexact, Nat.sub_self]

section estimate
variable {b w y : Nat}

/-- R256: `y` is the window's two top digits and `w` the divisor's top one; the estimate is at most their quotient. -/
theorem estimate_mul_le : estimate b (y / b) (y % b) w * w ≤ y := by
  unfold estimate
  split
  next heq =>
    calc (b - 1) * w
      _ ≤ y / b * b := by rw [heq, mul_comm]; exact Nat.mul_le_mul_left w (Nat.sub_le b 1)
      _ ≤ y := Nat.div_mul_le_self y b
  next => rw [Nat.div_add_mod']; exact Nat.div_mul_le_self y w

theorem estimate_lt (hb : 0 < b) (htop : y / b ≤ w) : estimate b (y / b) (y % b) w < b := by
  unfold estimate
  split
  next => omega
  next hne =>
    rw [Nat.div_add_mod']
    exact Nat.div_lt_of_lt_mul ((Nat.div_lt_iff_lt_mul hb).1 (lt_of_le_of_ne htop hne))

/-- R256: no digit that the quotient of the top digits leaves room for is above the estimate. -/
theorem le_estimate {q : Nat} (hw : 0 < w) (hq : q < b) (hqw : q * w ≤ y) : q ≤ estimate b (y / b) (y % b) w := by
  unfold estimate
  split
  next => omega
  next => rw [Nat.div_add_mod']; exact (Nat.le_div_iff_mul_le hw).2 hqw

end estimate

/-- R257: with the divisor's top digit at least b/2 the estimate is at most 2 above the quotient digit. -/
theorem le_div_add_two {b v x p e : Nat} (hv : 0 < v) (hp : 0 < p) (hnormal : b ≤ 2 * (v / p)) (hlt : e < b)
    (he : e * (v / p) ≤ x / p) : e ≤ x / v + 2 := by
  rcases Nat.lt_or_ge e 2 with hsmall | hge
  · exact hsmall.le.trans (Nat.le_add_left 2 _)
  · obtain ⟨f, rfl⟩ := Nat.exists_eq_add_of_le' hge
    refine Nat.add_le_add_right ((Nat.le_div_iff_mul_le hv).2 ?_) 2
    calc f * v
      _ ≤ f * ((v / p + 1) * p) := Nat.mul_le_mul_left f (by rw [mul_comm]; exact (Nat.lt_mul_div_succ v hp).le)
      _ = (f * (v / p) + f) * p := by ring
      _ ≤ (f + 2) * (v / p) * p := Nat.mul_le_mul_right p (by rw [Nat.add_mul]; omega)
      _ ≤ x := (Nat.mul_le_mul_right p he).trans (Nat.div_mul_le_self x p)

/-- R256, R257: the step gives the quotient digit and the remainder of its window after at most two corrections. -/
theorem longDivDigit_spec {b v m x : Nat} (hb : 0 < b) (hm : 1 ≤ m) (hnormal : b ≤ 2 * (v / b ^ (m - 1)))
    (hx : x < v * b) : ∃ k ≤ 2, longDivDigit b v m x = (x / v, ((x % v : Nat) : Int), k) := by
  have hp : 0 < b ^ (m - 1) := Nat.pow_pos hb
  have hv : 0 < v := Nat.pos_of_mul_pos_right (by omega : 0 < v * b)
  have hpow : x / b ^ m = x / b ^ (m - 1) / b := by
    rw [Nat.div_div_eq_div_mul, ← pow_succ, Nat.sub_add_cancel hm]
  have htop : x / b ^ (m - 1) / b ≤ v / b ^ (m - 1) := by
    rw [Nat.div_div_eq_div_mul, mul_comm, ← Nat.div_div_eq_div_mul]
    exact Nat.div_le_div_right ((Nat.div_lt_iff_lt_mul hb).2 hx).le
  have hq : x / v * (v / b ^ (m - 1)) ≤ x / b ^ (m - 1) := by
    rw [Nat.le_div_iff_mul_le hp, mul_assoc]
    exact (Nat.mul_le_mul_left _ (Nat.div_mul_le_self v _)).trans (Nat.div_mul_le_self x v)
  have hle := le_estimate (by omega) (Nat.div_lt_of_lt_mul hx) hq
  have hbound := le_div_add_two hv hp hnormal (estimate_lt hb htop) estimate_mul_le
  refine ⟨_, Nat.sub_le_iff_le_add'.2 hbound, ?_⟩
  rw [longDivDigit, hpow, addBack_eq hv hle]

/-! ### The loop over the quotient's positions (R256) -/

/-- One position more: its window's quotient digit and remainder, then the positions below it. -/
theorem longDivLoop_succ {b v m j u k : Nat}
    (h : longDivDigit b v m (u / b ^ j) = (u / b ^ j / v, ((u / b ^ j % v : Nat) : Int), k)) :
    longDivLoop b v m (j + 1) u =
      ((longDivLoop b v m j (u / b ^ j % v * b ^ j + u % b ^ j)).1 ++ [u / b ^ j / v],
        (longDivLoop b v m j (u / b ^ j % v * b ^ j + u % b ^ j)).2.1,
        (longDivLoop b v m j (u / b ^ j % v * b ^ j + u % b ^ j)).2.2 ++ [k]) := by
  rw [longDivLoop, h]
  rfl

/-- What the loop gives for `j` positions of a dividend `u`. -/
structure LongDivided (b v j u : Nat) (out : List Nat × Nat × List Nat) : Prop where
  identity : listValue b out.1 * v + out.2.1 = u
  remainder_lt : out.2.1 < v
  length : out.1.length = j
  digits : ∀ q ∈ out.1, q < b
  corrections : ∀ k ∈ out.2.2, k ≤ 2

/-- R256, R257: the loop divides every dividend below `v * b ^ j` by a normalized divisor. -/
theorem longDivLoop_spec {b v m : Nat} (hb : 0 < b) (hm : 1 ≤ m) (hnormal : b ≤ 2 * (v / b ^ (m - 1))) {j u : Nat}
    (hu : u < v * b ^ j) : LongDivided b v j u (longDivLoop b v m j u) := by
  induction j generalizing u with
  | zero => exact ⟨by simp [longDivLoop, listValue], by simpa [longDivLoop] using hu, rfl, by simp [longDivLoop],
      by simp [longDivLoop]⟩
  | succ j ih =>
    have hpow : 0 < b ^ j := Nat.pow_pos hb
    have hwindow : u / b ^ j < v * b := Nat.div_lt_of_lt_mul (by rw [pow_succ] at hu; linarith)
    obtain ⟨k, hk, hdigit⟩ := longDivDigit_spec hb hm hnormal hwindow
    have hlow := Nat.mod_lt u hpow
    have hrem : u / b ^ j % v < v := Nat.mod_lt _ (Nat.pos_of_mul_pos_right (Nat.zero_lt_of_lt hu))
    have hrest : u / b ^ j % v * b ^ j + u % b ^ j < v * b ^ j :=
      calc u / b ^ j % v * b ^ j + u % b ^ j
        _ < (u / b ^ j % v + 1) * b ^ j := by rw [Nat.add_mul, one_mul]; omega
        _ ≤ v * b ^ j := Nat.mul_le_mul_right _ hrem
    rw [longDivLoop_succ hdigit]
    obtain ⟨hval, hlt, hlen, hdigits, hcorr⟩ := ih hrest
    refine ⟨?_, hlt, by simp [hlen], ?_, ?_⟩
    · have hsplit := Nat.div_add_mod u (b ^ j)
      have hdiv := Nat.div_add_mod (u / b ^ j) v
      rw [listValue_concat, hlen]
      linear_combination hval + hsplit + b ^ j * hdiv
    · exact List.forall_mem_append.2 ⟨hdigits, by simpa using Nat.div_lt_of_lt_mul hwindow⟩
    · exact List.forall_mem_append.2 ⟨hcorr, by simpa using hk⟩

/-! ### Normalization (R256) -/

/-- The shift brings a nonzero top digit's top bit to the top of the digit, so the digit is at least b/2. -/
theorem radix_le_normalized {bits v p : Nat} (hp : 0 < p) (hpos : p ≤ v) (hlt : v / p < 2 ^ bits) :
    2 ^ bits ≤ 2 * (v * 2 ^ normalShift bits (v / p) / p) := by
  have hsize : (v / p).size ≤ bits := Nat.size_le.2 hlt
  have hsize' : 0 < (v / p).size := Nat.size_pos.2 (Nat.div_pos hpos hp)
  have htop : 2 ^ ((v / p).size - 1) ≤ v / p := Nat.lt_size.1 (Nat.sub_lt hsize' one_pos)
  calc 2 ^ bits
    _ = 2 * (2 ^ ((v / p).size - 1) * 2 ^ normalShift bits (v / p)) := by
      rw [← pow_add, ← pow_succ', normalShift]
      congr 1
      omega
    _ ≤ 2 * (v / p * 2 ^ normalShift bits (v / p)) := by gcongr
    _ ≤ 2 * (v * 2 ^ normalShift bits (v / p) / p) := by
      gcongr
      rw [mul_comm, mul_comm v]
      exact Nat.mul_div_le_mul_div_assoc _ _ _

/-- Settles O34: the shift normalizes the divisor and scales the remainder, and leaves the quotient as it is. -/
theorem longDivisionGivesQuotient : Obligations.LongDivisionGivesQuotient := by
  intro bits u n v m _ hm hmn hu hv hvtop out
  set b := 2 ^ bits
  set sh := normalShift bits (v / b ^ (m - 1))
  have hbpos : 0 < b := Nat.two_pow_pos bits
  have hppos : 0 < b ^ (m - 1) := Nat.pow_pos hbpos
  have hvpos : 0 < v := hppos.trans_le hvtop
  have hshift : 0 < 2 ^ sh := Nat.two_pow_pos sh
  have hlt : v / b ^ (m - 1) < b := Nat.div_lt_of_lt_mul (by rwa [← pow_succ, Nat.sub_add_cancel hm])
  have hdividend : u * 2 ^ sh < v * 2 ^ sh * b ^ (n - m + 1) := by
    have := (Nat.div_lt_iff_lt_mul hvpos).1 (div_lt_pow hm hmn hu hvtop)
    nlinarith
  obtain ⟨hval, hrem, hlen, hdigits, hcorr⟩ :=
    longDivLoop_spec hbpos hm (radix_le_normalized hppos hvtop hlt) hdividend
  obtain ⟨hquot, hremainder⟩ := eq_div_mod_of_identity hval hrem
  rw [Nat.mul_div_mul_right _ _ hshift] at hquot
  rw [Nat.mul_mod_mul_right] at hremainder
  exact ⟨hquot, Nat.div_eq_of_eq_mul_left hshift hremainder, hlen, hdigits, hcorr⟩

end Sys2Proof.Machine
end
